-- ==== Sys2Proof/Word.lean ====
section
/-! DEFINITION. The words of the SR-ARQ core: 32-bit words, bytes, the 160-bit message bus and the 256-bit packet bus
(00_scope R9, R14; 30_encoding R75, R76). -/

namespace Sys2Proof

/-- A 32-bit word: a packet field, a counter, a duration (R14, R27, R70). -/
abbrev Word := BitVec 32

/-- An unsigned byte (R9, R77). -/
abbrev Byte := BitVec 8

/-- A message, as the 160-bit bus value of its 20 bytes (R14, R75): byte `i` is bits `8i+7` down to `8i`. -/
abbrev Message := BitVec 160

/-- The 256-bit packet bus (R76). -/
abbrev PacketBus := BitVec 256

end Sys2Proof
end

