-- ==== Sys2Proof/Syntax.lean ====
section
/-! DEFINITION. The commands of the SR-ARQ core, one constructor per row of spec/opcode_table.json (30_encoding R71),
and the packets they carry (00_scope R14). -/

namespace Sys2Proof

/-- A packet (R14). -/
structure Packet where
  seqnum : Word
  acknum : Word
  checksum : Word
  payload : Message
  deriving DecidableEq, Repr, Inhabited

/-- The two agents (R2, R178). -/
inductive Entity where
  | a  -- the sender
  | b  -- the receiver
  deriving DecidableEq, Repr

/-- The event field `cmd_op[2:0]` (R71): the same value for the same kind of event in both entities. -/
inductive Event where
  | init
  | submit
  | packetArrival
  | timerExpiry
  deriving DecidableEq, Repr

/-- A command together with the operand it reads (R71, R72). -/
inductive Instr where
  | aInit
  | aSubmit (m : Message)
  | aAckIn (p : Packet)
  | aTimeout
  | bInit
  | bPktIn (p : Packet)
  deriving DecidableEq, Repr

end Sys2Proof
end

