-- ==== Sys2Proof/Config.lean ====
section
/-! DEFINITION. The parameters of 00_scope R7, fixed for a block, and the free values of the model. -/

namespace Sys2Proof

/-- The parameters the block is built with (R7). No command writes them (R35). -/
structure Config where
  /-- `W`, the window size. -/
  windowSize : Nat
  /-- `S`, the sequence space: always `2·W` (R8); a configuration that says otherwise is refused. -/
  seqSpace : Nat
  /-- `NOTINUSE`, the acknum of a data packet. -/
  notInUse : Word
  /-- `RTT`, the opaque duration passed with every timer start. -/
  rtt : Word
  /-- `ACK_FILLER`, the payload of every ACK that B builds. -/
  ackFiller : Message
  /-- `ACK_WINDOW_CHECK`: whether A ignores an ACK outside its outstanding range. -/
  ackWindowCheck : Bool
  deriving DecidableEq, Repr

/-- The value of `RTT` in the default configuration: a FREE VALUE (R7 'OPEN', D5; DESIGN CHOICE, log entry 2). -/
opaque Config.openRtt : Word

/-- FREE VALUE (DESIGN CHOICE, log entry 3): what slot `slot` of an entity's packet buffer holds, after the power-on
reset numbered `epoch`, while nothing has been written to it (R24, R29, R30, R42, U-6). -/
opaque Config.unwrittenPacket (owner : Entity) (epoch slot : Nat) : Packet

/-- The defaults of R7: `W = 6`, `S = 12`, `NOTINUSE = -1`, `ACK_FILLER` = 20 bytes 0x30, `ACK_WINDOW_CHECK` = true. The
spec takes the sentinel and the filler from general knowledge (PRESUMED, log entry 10). -/
def Config.default : Config where
  windowSize := 6
  seqSpace := 12
  notInUse := 0xFFFFFFFF#32
  rtt := Config.openRtt
  ackFiller := 0x3030303030303030303030303030303030303030#160
  ackWindowCheck := true

/-- `SEQ_W`, the width of an internal sequence register: the least `n` with `S ≤ 2^n` (R7, D32). -/
def Config.seqW (c : Config) : Nat := if c.seqSpace ≤ 1 then 0 else (c.seqSpace - 1).log2 + 1

end Sys2Proof
end

