-- ==== Sys2Proof/Decode.lean ====
section
/-! DEFINITION. The encodings of 30_encoding: the command port to a command (R71 to R74) and back, packets on the bus
(R76) and in serialised form (R83). -/

namespace Sys2Proof

/-- What stands on the command port: `cmd_op`, `cmd_msg`, `cmd_pkt` (R70). -/
structure Command where
  op : BitVec 4
  msg : Message
  pkt : PacketBus
  deriving DecidableEq, Repr

/-- The result of decoding: a command of R71, or a reserved code, named by its value (R73, R74). -/
inductive Decoded where
  | command (i : Instr)
  | reserved (op : BitVec 4)
  deriving DecidableEq, Repr

/-- Byte `i` of a message: bits `8i+7` down to `8i` (R75). -/
def Message.byte (m : Message) (i : Nat) : Byte := m.extractLsb' (8 * i) 8

/-- `m` with byte `i` replaced by `b` (R75). -/
def Message.setByte (m : Message) (i : Nat) (b : Byte) : Message :=
  m &&& ~~~(255#160 <<< (8 * i)) ||| b.setWidth 160 <<< (8 * i)

/-- The four fields of a packet from the packet bus (R76). -/
def Packet.ofBus (b : PacketBus) : Packet where
  seqnum := b.extractLsb' 0 32
  acknum := b.extractLsb' 32 32
  checksum := b.extractLsb' 64 32
  payload := b.extractLsb' 96 160

/-- A packet on the packet bus (R76): payload, checksum, acknum, seqnum from the top bit down. -/
def Packet.toBus (p : Packet) : PacketBus := p.payload ++ p.checksum ++ p.acknum ++ p.seqnum

/-- The command of a code and its operand buses, total on the 16 codes (R71, R73, R74). Only the operand bus that the
command names is read (R72). -/
def decode (c : Command) : Decoded :=
  if c.op = 0b0000#4 then .command .aInit
  else if c.op = 0b0001#4 then .command (.aSubmit c.msg)
  else if c.op = 0b0010#4 then .command (.aAckIn (Packet.ofBus c.pkt))
  else if c.op = 0b0011#4 then .command .aTimeout
  else if c.op = 0b1000#4 then .command .bInit
  else if c.op = 0b1010#4 then .command (.bPktIn (Packet.ofBus c.pkt))
  else .reserved c.op

/-- The entity a command belongs to (R71, R173). -/
def Instr.entity : Instr → Entity
  | .aInit => .a
  | .aSubmit _ => .a
  | .aAckIn _ => .a
  | .aTimeout => .a
  | .bInit => .b
  | .bPktIn _ => .b

/-- The event a command reports (R71). -/
def Instr.event : Instr → Event
  | .aInit => .init
  | .aSubmit _ => .submit
  | .aAckIn _ => .packetArrival
  | .aTimeout => .timerExpiry
  | .bInit => .init
  | .bPktIn _ => .packetArrival

/-- The entity bit `cmd_op[3]` (R71). -/
def Entity.bit : Entity → BitVec 1
  | .a => 0
  | .b => 1

/-- The event field `cmd_op[2:0]` (R71). -/
def Event.field : Event → BitVec 3
  | .init => 0b000
  | .submit => 0b001
  | .packetArrival => 0b010
  | .timerExpiry => 0b011

/-- The code of a command, written as the column `cmd_op` of R71. -/
def Instr.opcode : Instr → BitVec 4
  | .aInit => 0b0000
  | .aSubmit _ => 0b0001
  | .aAckIn _ => 0b0010
  | .aTimeout => 0b0011
  | .bInit => 0b1000
  | .bPktIn _ => 0b1010

/-- What the environment drives for a command (R71, R75, R76). A bus the command does not read is driven with zeros; any
other value would do (R72; DESIGN CHOICE, log entry 13). -/
def encode (i : Instr) : Command :=
  match i with
  | .aInit => ⟨i.opcode, 0, 0⟩
  | .aSubmit m => ⟨i.opcode, m, 0⟩
  | .aAckIn p => ⟨i.opcode, 0, p.toBus⟩
  | .aTimeout => ⟨i.opcode, 0, 0⟩
  | .bInit => ⟨i.opcode, 0, 0⟩
  | .bPktIn p => ⟨i.opcode, 0, p.toBus⟩

/-- The bytes of a word, least significant first (R83). -/
def wordBytes (w : Word) : List Byte := (List.range 4).map fun i => w.extractLsb' (8 * i) 8

/-- The 20 bytes of a message, byte 0 first (R52, R75). -/
def Message.bytes (m : Message) : List Byte := (List.range 20).map m.byte

/-- The number whose base-256 digits are the bytes, least significant first. -/
def bytesToNat : List Byte → Nat
  | [] => 0
  | b :: rest => b.toNat + 256 * bytesToNat rest

/-- The message of a list of 20 bytes, byte 0 first (R75, R84 `bytes(...)`). -/
def Message.ofBytes (l : List Byte) : Message := BitVec.ofNat 160 (bytesToNat l)

/-- The 32-byte serialised form of a packet (R83; PRESUMED, log entry 14). The block never serialises; test benches do.
-/
def Packet.serialise (p : Packet) : List Byte :=
  wordBytes p.seqnum ++ wordBytes p.acknum ++ wordBytes p.checksum ++ p.payload.bytes

/-- The packet of a 32-byte serialised form, none for any other length (R83). -/
def Packet.ofSerialised (l : List Byte) : Option Packet :=
  if l.length = 32 then some (Packet.ofBus (BitVec.ofNat 256 (bytesToNat l))) else none

/-- The command port for an instruction given as the bits `w`, `nbits` of them, bit 0 of the code lowest (DESIGN
CHOICE, log entry 9): the code is bits 3 down to 0; bits 7 to 4 only fill the code's byte; an operand bus, for which
opcode_table.json gives no bits, starts at bit 8. The bus the command does not read gets the same bits, and they are
ignored (R72). -/
def tableCommand (nbits w : Nat) : Command :=
  let v := w % 2 ^ nbits
  ⟨BitVec.ofNat 4 v, BitVec.ofNat 160 (v / 2 ^ 8), BitVec.ofNat 256 (v / 2 ^ 8)⟩

/-- The command the decoder reads from an opcode table word; none for a reserved code. -/
def decodeTableWord (nbits w : Nat) : Option Instr :=
  match decode (tableCommand nbits w) with
  | .command i => some i
  | .reserved _ => none

end Sys2Proof
end

