-- ==== Sys2Proof/WellFormed.lean ====
section
/-! DEFINITION. Which configurations are configurations of this block (00_scope R7, R8; 93 U-11, U-12). A command needs
no check: its operands are bus-wide words and every value of a bus is legal (30_encoding R72, R74). -/

namespace Sys2Proof

/-- `W ≥ 1` (R7). -/
def Config.windowPositive (c : Config) : Bool := decide (1 ≤ c.windowSize)

/-- `W ≤ 2^28` (R7, C13). -/
def Config.windowBounded (c : Config) : Bool := decide (c.windowSize ≤ 2 ^ 28)

/-- `S = 2·W` (R8). -/
def Config.spaceDoubled (c : Config) : Bool := decide (c.seqSpace = 2 * c.windowSize)

/-- A configuration of this block; a model refuses every other (R7, R8, U-11, U-12). -/
def Config.legal (c : Config) : Bool := c.windowPositive && c.windowBounded && c.spaceDoubled

/-- `Config.legal` as a proposition. -/
abbrev Config.Legal (c : Config) : Prop := c.legal = true

end Sys2Proof
end

