-- ==== Sys2Proof/Machine/State.lean ====
section
/-! DEFINITION. The state of one SR-ARQ core (10_state R20 to R42), its outcome types and its state after power-on.
Plain data only. -/

namespace Sys2Proof.Machine

/-- `A.timer_running` as the state machine of R100: 0 is STOPPED, 1 is RUNNING (R26). -/
inductive TimerState where
  | stopped
  | running
  deriving DecidableEq, Repr

/-- The status codes by name (R161). The reserved codes 0xC and 0xD have no name: they are never set. -/
inductive Status where
  | initDone
  | sent
  | droppedWindowFull
  | ackCorrupt
  | ackOutOfWindow
  | ackDuplicate
  | ackNew
  | retransmitted
  | pktCorrupt
  | pktAccepted
  | pktDuplicate
  | pktOutsideWindow
  | faultSpuriousTimeout
  | faultReservedOp
  deriving DecidableEq, Repr

/-- The sticky faults, by name (R34, R165, R166). -/
inductive FaultBit where
  | reservedOp
  | spuriousTimeout
  deriving DecidableEq, Repr

/-- One transfer on the output stream (R80). Tags 101 to 111 have no action (R81). -/
inductive Action where
  | aToChannel (p : Packet)
  | bToChannel (p : Packet)
  | bToApp (m : Message)
  | timerStart (d : Word)
  | timerStop
  deriving DecidableEq, Repr

/-- The sender record `A` (R22 to R27). `acked` lists the sequence numbers whose bit is 1, strictly rising; `buffer`
lists the written slots with their packets, slots strictly rising (log entries 5 and 11). -/
@[ext]
structure Sender where
  base : Nat
  nextseqnum : Nat
  buffer : List (Nat × Packet)
  acked : List Nat
  timer : TimerState
  cntWindowFull : Word
  cntNewAcks : Word
  cntResent : Word
  deriving DecidableEq, Repr

/-- The receiver record `B` (R28, R30 to R32), held as `Sender` holds its arrays. -/
@[ext]
structure Receiver where
  expectedseqnum : Nat
  recvBuffer : List (Nat × Packet)
  received : List Nat
  cntDelivered : Word
  deriving DecidableEq, Repr

/-- What the environment drives on the input ports in one step (R70). -/
structure PortSample where
  rst : Bool
  cmdValid : Bool
  cmd : Command
  outReady : Bool
  deriving DecidableEq, Repr

/-- The state update of a command in progress, computed and not yet written (R200): the records, and the status it ends
with. The fault register is no part of it: a command that faults emits no action (R12), so it is never in progress. -/
structure Update where
  a : Sender
  b : Receiver
  lastStatus : Status
  deriving DecidableEq, Repr

/-- The state: the block's (R20, R40), the configuration it was built with (DESIGN CHOICE, log entry 1), and what the
environment drives from now on (DESIGN CHOICE, log entry 6). -/
@[ext]
structure State where
  /-- the parameters of R7: fixed, no step changes them -/
  cfg : Config
  /-- the sender record -/
  a : Sender
  /-- the receiver record -/
  b : Receiver
  /-- `last_status` (R33) -/
  lastStatus : Status
  /-- `fault`: bit 0 RESERVED_OP, bit 1 SPURIOUS_TIMEOUT (R34) -/
  fault : BitVec 2
  /-- the actions not yet taken by the environment, the next to leave first (R40, R201) -/
  out : List Action
  /-- the update of the command in progress, written once its last action has been taken (R200); none while no command
  is in progress -/
  held : Option Update
  /-- the model's own: what the environment drives, one sample a step; past its end every input is 0 for ever -/
  env : List PortSample
  /-- the model's own: how many times `rst` has been applied; free contents of unwritten slots depend on it -/
  epoch : Nat
  deriving DecidableEq, Repr

/-- Why the machine stops. -/
inductive Fault where
  /-- Raised by `clockPorts`, called by `step`: an action waits and the environment drives nothing any more, so
  `out_ready` is 0 for ever. R206 and U-10 call this stuck, never a final state (DEDUCED, log entry 17). Safe: nothing
  is claimed to follow. -/
  | outputStalled
  deriving DecidableEq, Repr

/-- Why the model has no meaning for a step. -/
inductive Refusal where
  /-- Raised by `exec` alone, for a command without a meaning; no command is left without one. Safe. -/
  | notModelled (mnemonic : String)
  /-- Raised by `clockPorts`, called by `step`: the configuration is not one of this block, and R7, R8, U-11 and U-12
  say that a model refuses it. Safe. -/
  | illegalConfiguration
  deriving DecidableEq, Repr

/-- The sender after power-on (R42). -/
def Sender.powerOn : Sender where
  base := 0
  nextseqnum := 0
  buffer := []
  acked := []
  timer := .stopped
  cntWindowFull := 0
  cntNewAcks := 0
  cntResent := 0

/-- The receiver after power-on (R42). -/
def Receiver.powerOn : Receiver where
  expectedseqnum := 0
  recvBuffer := []
  received := []
  cntDelivered := 0

/-- The block built with configuration `c`, right after power-on reset (R42, R190; DESIGN CHOICE, log entry 8). -/
def State.resetWith (c : Config) : State where
  cfg := c
  a := Sender.powerOn
  b := Receiver.powerOn
  lastStatus := .initDone
  fault := 0
  out := []
  held := none
  env := []
  epoch := 0

/-- The block of the default configuration (R7), right after power-on reset. -/
def State.reset : State := State.resetWith Config.default

end Sys2Proof.Machine
end

