-- ==== Sys2Proof/Machine/Operands.lean ====
section
/-! DEFINITION. The helper functions of 00_scope R13, in the one place R13 asks for, and how a packet field is read as a
number (30_encoding R77). -/

namespace Sys2Proof.Machine

open Sys2Proof

/-- `inc(x) = (x + 1) mod S` (R13). -/
def inc (c : Config) (x : Nat) : Nat := (x + 1) % c.seqSpace

/-- `dist(a, b) = (b - a) mod S`, the remainder that is never negative (R10, R13). -/
def seqDist (c : Config) (a b : Int) : Nat := ((b - a) % (c.seqSpace : Int)).toNat

/-- The slot `i` steps forward of `x`: `(x + i) mod S` (R122). -/
def ahead (c : Config) (x i : Nat) : Nat := (x + i) % c.seqSpace

/-- `inSeqRange(v)`: `0 <= v < S` (R13). -/
def inSeqRange (c : Config) (v : Int) : Bool := decide (0 ≤ v ∧ v < (c.seqSpace : Int))

/-- `outstanding() = dist(A.base, A.nextseqnum)`: the number of sent, unslid packets (R13). -/
def State.outstanding (s : State) : Nat := seqDist s.cfg s.a.base s.a.nextseqnum

/-- `inOutstanding(v)` (R13). -/
def State.inOutstanding (s : State) (v : Int) : Bool :=
  inSeqRange s.cfg v && decide (seqDist s.cfg s.a.base v < s.outstanding)

/-- `inRecvWindow(v)` (R13): the forward window of R145. -/
def State.inRecvWindow (s : State) (v : Int) : Bool :=
  inSeqRange s.cfg v && decide (seqDist s.cfg s.b.expectedseqnum v < s.cfg.windowSize)

/-- `sint32(w)`: a packet field as a number (R9, R77). -/
def sint32 (w : Word) : Int := w.toInt

/-- The index that a field names. Used only after `inSeqRange (sint32 w)` holds, where the two agree (R53). -/
def seqIndex (w : Word) : Nat := (sint32 w).toNat

end Sys2Proof.Machine
end

