-- ==== Sys2Proof/Machine/Ops.lean ====
section
/-! DEFINITION. The operations every command uses: the bitmaps and the packet buffers (20_memory R51, R54), the
primitives of 00_scope R12 (emit, status, raise), the timer actions (60_exceptions R175) and power-on reset (70_reset
R190). -/

namespace Sys2Proof.Machine

open Sys2Proof

/-- The canonical form of a bitmap: its set indices, strictly rising. -/
abbrev bitsWf (l : List Nat) : Prop := l.Pairwise (· < ·)

/-- The canonical form of a packet buffer: its written slots, strictly rising. -/
abbrev slotsWf (l : List (Nat × Packet)) : Prop := (l.map Prod.fst).Pairwise (· < ·)

/-- Entry `i` of a bitmap (R25, R31). -/
def bitGet (l : List Nat) (i : Nat) : Bool := decide (i ∈ l)

/-- Sets entry `i` and no other (R11). -/
def bitSet : List Nat → Nat → List Nat
  | [], i => [i]
  | j :: rest, i => if i < j then i :: j :: rest else if i = j then j :: rest else j :: bitSet rest i

/-- Clears entry `i` and no other (R11). -/
def bitClear (l : List Nat) (i : Nat) : List Nat := l.filter fun j => decide (j ≠ i)

/-- What was last written to slot `i`; none while nothing was (R29). -/
def slotLookup : List (Nat × Packet) → Nat → Option Packet
  | [], _ => none
  | e :: rest, i => if e.1 = i then some e.2 else slotLookup rest i

/-- Reads slot `i`, whole (R54). A slot that nothing has written since power-on holds a free packet (DESIGN CHOICE, log
entry 3). -/
def slotRead (owner : Entity) (epoch : Nat) (l : List (Nat × Packet)) (i : Nat) : Packet :=
  match slotLookup l i with
  | some p => p
  | none => Config.unwrittenPacket owner epoch i

/-- Writes slot `i`, whole, and no other (R11, R54). -/
def slotWrite : List (Nat × Packet) → Nat → Packet → List (Nat × Packet)
  | [], i, p => [(i, p)]
  | e :: rest, i, p =>
    if i < e.1 then (i, p) :: e :: rest else if i = e.1 then (i, p) :: rest else e :: slotWrite rest i p

/-- `A.buffer[i]`. -/
def State.sentPacket (s : State) (i : Nat) : Packet := slotRead .a s.epoch s.a.buffer i

/-- `B.recv_buffer[i]`. -/
def State.heldPacket (s : State) (i : Nat) : Packet := slotRead .b s.epoch s.b.recvBuffer i

/-- `emit` (R12): the action leaves after those emitted before it. -/
def State.emit (s : State) (x : Action) : State := { s with out := s.out ++ [x] }

/-- `status <- c` (R12). -/
def State.setStatus (s : State) (c : Status) : State := { s with lastStatus := c }

/-- The bit of a fault in the `fault` register (R34). -/
def FaultBit.mask : FaultBit → BitVec 2
  | .reservedOp => 0b01
  | .spuriousTimeout => 0b10

/-- The status code that goes with a fault (R165, R166). -/
def FaultBit.status : FaultBit → Status
  | .reservedOp => .faultReservedOp
  | .spuriousTimeout => .faultSpuriousTimeout

/-- `raise Fault(f)` (R12, R165, R166): the sticky bit and the status, no other state and no action. This is the block's
one way of taking an exception; it has no return (R171, R172). -/
def State.raiseFault (s : State) (f : FaultBit) : State :=
  { s with fault := s.fault ||| f.mask, lastStatus := f.status }

/-- `emit TIMER_START(RTT)` and `A.timer_running <- 1` (R108, R123, R175). -/
def State.startTimer (s : State) : State :=
  { s.emit (.timerStart s.cfg.rtt) with a := { s.a with timer := .running } }

/-- `if A.timer_running = 1: emit TIMER_STOP` and `A.timer_running <- 0` (R101, R116, R175). -/
def State.stopTimer (s : State) : State :=
  { s with
    a := { s.a with timer := .stopped }
    out := s.out ++ if s.a.timer = .running then [.timerStop] else [] }

/-- Restart (R116): stop if running, then start fresh. -/
def State.restartTimer (s : State) : State := s.stopTimer.startTimer

/-- Power-on reset (R190): every piece of state at its power-on value (R42), no action, the pending actions discarded.
The buffers are unspecified anew. The configuration and the environment's coming drives are no state of the block. -/
def State.powerOn (s : State) : State :=
  { State.resetWith s.cfg with env := s.env, epoch := s.epoch + 1 }

end Sys2Proof.Machine
end

