-- ==== Sys2Proof/Machine/Flags.lean ====
section
/-! DEFINITION. The flags and codes as software sees them: status codes (60_exceptions R161), fault bits (10_state R34),
`timer_running` (R26), and which status a command can leave (R161 'Set by'). The block has no condition codes (R37). -/

namespace Sys2Proof.Machine

open Sys2Proof

/-- The 4-bit code of a status (R161). -/
def Status.code : Status → BitVec 4
  | .initDone => 0x0
  | .sent => 0x1
  | .droppedWindowFull => 0x2
  | .ackCorrupt => 0x3
  | .ackOutOfWindow => 0x4
  | .ackDuplicate => 0x5
  | .ackNew => 0x6
  | .retransmitted => 0x7
  | .pktCorrupt => 0x8
  | .pktAccepted => 0x9
  | .pktDuplicate => 0xA
  | .pktOutsideWindow => 0xB
  | .faultSpuriousTimeout => 0xE
  | .faultReservedOp => 0xF

/-- The statuses a command can end with: the column 'Set by' of R161. -/
def commandStatuses : Instr → List Status
  | .aInit => [.initDone]
  | .aSubmit _ => [.sent, .droppedWindowFull]
  | .aAckIn _ => [.ackCorrupt, .ackOutOfWindow, .ackDuplicate, .ackNew]
  | .aTimeout => [.retransmitted, .faultSpuriousTimeout]
  | .bInit => [.initDone]
  | .bPktIn _ => [.pktCorrupt, .pktAccepted, .pktDuplicate, .pktOutsideWindow]

/-- `fault[0]`, RESERVED_OP (R34). -/
def State.reservedOpFault (s : State) : Bool := s.fault.getLsbD 0

/-- `fault[1]`, SPURIOUS_TIMEOUT (R34). -/
def State.spuriousTimeoutFault (s : State) : Bool := s.fault.getLsbD 1

/-- `A.timer_running` as a bit (R26, R100). -/
def TimerState.bit : TimerState → BitVec 1
  | .stopped => 0
  | .running => 1

/-- `A.acked[i]` (R25). -/
def State.acked (s : State) (i : Nat) : Bool := bitGet s.a.acked i

/-- `B.received[i]` (R31). -/
def State.received (s : State) (i : Nat) : Bool := bitGet s.b.received i

end Sys2Proof.Machine
end

