-- ==== Sys2Proof/Machine/Checksum.lean ====
section
/-! DEFINITION. The additive checksum validator (40_checksum R90, R93) and the two packets the block builds (30_encoding
R78, R79). -/

namespace Sys2Proof.Machine

open Sys2Proof

/-- The sum of the 20 payload bytes, each unsigned, modulo 2^32 (R90). -/
def payloadSum (m : Message) : Word := (m.bytes.map fun b => b.setWidth 32).sum

/-- `CHECKSUM(p)` (R90): seqnum, acknum and the payload bytes, modulo 2^32. The checksum field is not read. -/
def checksum (p : Packet) : Word := p.seqnum + p.acknum + payloadSum p.payload

/-- `IS_CORRUPTED(p)` (R93): a compare of 32-bit words. -/
def isCorrupted (p : Packet) : Bool := decide (p.checksum ≠ checksum p)

/-- Fills a packet's checksum field (R78, R79). -/
def sealPacket (p : Packet) : Packet := { p with checksum := checksum p }

/-- The data packet A builds for sequence number `s` and message `m` (R78). -/
def dataPacket (c : Config) (s : Nat) (m : Message) : Packet :=
  sealPacket ⟨BitVec.ofNat 32 s, c.notInUse, 0, m⟩

/-- The ACK packet B builds for a data packet `p` (R79): the whole seqnum field, mirrored; the filler, no echo. -/
def ackPacket (c : Config) (p : Packet) : Packet :=
  sealPacket ⟨p.seqnum, p.seqnum, 0, c.ackFiller⟩

end Sys2Proof.Machine
end

