-- ==== Sys2Proof/Machine/Receiver.lean ====
section
/-! DEFINITION. The commands of entity B (42_receiver R140 to R150), one meaning each. -/

namespace Sys2Proof.Machine

open Sys2Proof

/-- `B.expectedseqnum`, `B.received` and the counter as `B_INIT` leaves them; the buffer stays (R141). -/
def Receiver.clear (b : Receiver) : Receiver := { b with expectedseqnum := 0, received := [], cntDelivered := 0 }

/-- `B_INIT` (R141, R192). It emits no action. -/
def execBInit (s : State) : Host.Outcome State Fault Refusal :=
  .next ({ s with b := s.b.clear }.setStatus .initDone)

/-- The status an uncorrupted packet ends with (R144, R163): outside the window, duplicate, accepted. -/
def State.arrivalStatus (s : State) (p : Packet) : Status :=
  if s.inRecvWindow (sint32 p.seqnum) then
    if bitGet s.b.received (seqIndex p.seqnum) then .pktDuplicate else .pktAccepted
  else .pktOutsideWindow

/-- Stores an accepted packet whole and marks it received (R146). -/
def State.storePacket (s : State) (p : Packet) : State :=
  { s with b := { s.b with
      recvBuffer := slotWrite s.b.recvBuffer (seqIndex p.seqnum) p
      received := bitSet s.b.received (seqIndex p.seqnum) } }

/-- The acceptance step (R145, R146): only a packet in the window and not yet received is stored. -/
def State.acceptPacket (s : State) (p : Packet) : State :=
  if s.arrivalStatus p = .pktAccepted then s.storePacket p else s

/-- Delivers the payload at `B.expectedseqnum` and moves past it (R147). -/
def State.deliverOne (s : State) : State :=
  let e := s.b.expectedseqnum
  { s.emit (.bToApp (s.heldPacket e).payload) with
    b := { s.b with
      received := bitClear s.b.received e
      expectedseqnum := inc s.cfg e
      cntDelivered := s.b.cntDelivered + 1#32 } }

/-- The drain (R147): deliver while the expected slot is received, for at most `n` deliveries. -/
def drain : Nat → State → State
  | 0, s => s
  | n + 1, s => if bitGet s.b.received s.b.expectedseqnum then drain n s.deliverOne else s

/-- The drain to its end. `S` deliveries are enough: each clears one of at most `S` set bits (DEDUCED, log entry 12). -/
def State.drainAll (s : State) : State := drain s.cfg.seqSpace s

/-- `B_PKT_IN p` (R144): the ACK first (R148), then acceptance, then the drain. -/
def execBPktIn (p : Packet) (s : State) : Host.Outcome State Fault Refusal :=
  if isCorrupted p then .next (s.setStatus .pktCorrupt)
  else .next ((((s.emit (.bToChannel (ackPacket s.cfg p))).acceptPacket p).drainAll).setStatus (s.arrivalStatus p))

end Sys2Proof.Machine
end

