-- ==== Sys2Proof/Machine/Sender.lean ====
section
/-! DEFINITION. The commands of entity A (41_sender R100 to R126), one meaning each. -/

namespace Sys2Proof.Machine

open Sys2Proof

/-- `A.base`, `A.nextseqnum`, `A.acked` and the counters as `A_INIT` leaves them; the buffer and the timer stay (R101).
-/
def Sender.clear (a : Sender) : Sender :=
  { a with base := 0, nextseqnum := 0, acked := [], cntWindowFull := 0, cntNewAcks := 0, cntResent := 0 }

/-- `A_INIT` (R101, R192): stops the timer if it runs, then clears the sender but its buffer. -/
def execAInit (s : State) : Host.Outcome State Fault Refusal :=
  let t := s.stopTimer
  .next ({ t with a := t.a.clear }.setStatus .initDone)

/-- The window is full (R106). -/
def State.windowFull (s : State) : Bool := decide (s.outstanding ≥ s.cfg.windowSize)

/-- A submission that finds the window full is counted and lost (R106). -/
def State.dropMessage (s : State) : State :=
  { s with a := { s.a with cntWindowFull := s.a.cntWindowFull + 1#32 } }

/-- Builds the data packet, stores it whole, clears its acked bit and emits it (R107). -/
def State.sendNew (s : State) (m : Message) : State :=
  let n := s.a.nextseqnum
  let p := dataPacket s.cfg n m
  { s with a := { s.a with buffer := slotWrite s.a.buffer n p, acked := bitClear s.a.acked n } }.emit (.aToChannel p)

/-- Starts the timer only if it is STOPPED (R108). -/
def State.startTimerIfStopped (s : State) : State := if s.a.timer = .stopped then s.startTimer else s

/-- `A.nextseqnum <- inc(A.nextseqnum)` (R109). -/
def State.advanceNext (s : State) : State := { s with a := { s.a with nextseqnum := inc s.cfg s.a.nextseqnum } }

/-- `A_SUBMIT m` (R105). -/
def execASubmit (m : Message) (s : State) : Host.Outcome State Fault Refusal :=
  if s.windowFull then .next (s.dropMessage.setStatus .droppedWindowFull)
  else .next ((s.sendNew m).startTimerIfStopped.advanceNext.setStatus .sent)

/-- Whether an uncorrupted ACK may be acted on: in the outstanding range (R113); in literal mode, in the sequence range
only (R118). -/
def State.ackInRange (s : State) (v : Int) : Bool :=
  if s.cfg.ackWindowCheck then s.inOutstanding v else inSeqRange s.cfg v

/-- `A.acked[i] <- 1` and the new-ACK counter (R115). -/
def State.markAcked (s : State) (i : Nat) : State :=
  { s with a := { s.a with acked := bitSet s.a.acked i, cntNewAcks := s.a.cntNewAcks + 1#32 } }

/-- The slide (R115): base moves over set acked bits, clearing each, for at most `n` steps. -/
def slide (c : Config) : Nat → Sender → Sender
  | 0, a => a
  | n + 1, a =>
    if bitGet a.acked a.base then slide c n { a with acked := bitClear a.acked a.base, base := inc c a.base } else a

/-- The slide to its end. `S` steps are enough: each clears one of at most `S` set bits (R17, R118; DEDUCED, log entry
12). -/
def State.slideBase (s : State) : State := { s with a := slide s.cfg s.cfg.seqSpace s.a }

/-- The timer after the slide (R116): stopped if the window is empty, else restarted, whether or not base moved. -/
def State.timerAfterSlide (s : State) : State :=
  if s.a.base = s.a.nextseqnum then s.stopTimer else s.restartTimer

/-- `A_ACK_IN p` (R112; R118 in literal mode), its conditions in the order of R163. -/
def execAAckIn (p : Packet) (s : State) : Host.Outcome State Fault Refusal :=
  if isCorrupted p then .next (s.setStatus .ackCorrupt)
  else if s.ackInRange (sint32 p.acknum) = false then .next (s.setStatus .ackOutOfWindow)
  else if bitGet s.a.acked (seqIndex p.acknum) then .next (s.setStatus .ackDuplicate)
  else .next ((s.markAcked (seqIndex p.acknum)).slideBase.timerAfterSlide.setStatus .ackNew)

/-- Whether the scan resends offset `i`: the slot is unacked and `i` is within the outstanding range (R122). -/
def State.resends (s : State) (i : Nat) : Bool :=
  !bitGet s.a.acked (ahead s.cfg s.a.base i) && decide (i < s.outstanding)

/-- The slots the retransmit scan resends, in its order: offsets 0 to `W - 1` from base (R122). -/
def State.resendSlots (s : State) : List Nat :=
  ((List.range s.cfg.windowSize).filter s.resends).map (ahead s.cfg s.a.base)

/-- Resends the slots unchanged, counting each (R122). -/
def State.retransmit (s : State) : State :=
  { s with
    a := { s.a with cntResent := s.a.cntResent + BitVec.ofNat 32 s.resendSlots.length }
    out := s.out ++ s.resendSlots.map fun i => .aToChannel (s.sentPacket i) }

/-- `A_TIMEOUT` (R121): a fault while the timer is STOPPED (R124, R166), else the scan and `TIMER_START` alone (R123).
-/
def execATimeout (s : State) : Host.Outcome State Fault Refusal :=
  if s.a.timer = .stopped then .next (s.raiseFault .spuriousTimeout)
  else .next (s.retransmit.startTimer.setStatus .retransmitted)

end Sys2Proof.Machine
end

