-- ==== Sys2Proof/Machine/Dispatch.lean ====
section
/-! DEFINITION. Which meaning each command has (30_encoding R71). -/

namespace Sys2Proof.Machine

open Sys2Proof

def exec (i : Instr) (s : State) : Host.Outcome State Fault Refusal :=
  match i with
  | .aInit => Sys2Proof.Machine.execAInit s
  | .aSubmit m => Sys2Proof.Machine.execASubmit m s
  | .aAckIn p => Sys2Proof.Machine.execAAckIn p s
  | .aTimeout => Sys2Proof.Machine.execATimeout s
  | .bInit => Sys2Proof.Machine.execBInit s
  | .bPktIn p => Sys2Proof.Machine.execBPktIn p s

end Sys2Proof.Machine
end

