-- ==== Sys2Proof/Machine/Ports.lean ====
section
/-! DEFINITION. The ports and the handshake (30_encoding R70, R80; 70_reset R190, R200 to R206): what one sample of the
input ports does, and what the output ports show. -/

namespace Sys2Proof.Machine

open Sys2Proof

/-- `cmd_ready`: 0 from the acceptance of a command until its last action has been taken (R200). -/
def State.cmdReady (s : State) : Bool := s.out.isEmpty

/-- `out_valid`: an action is offered (R70). -/
def State.outValid (s : State) : Bool := !s.out.isEmpty

/-- The action on the output stream: the oldest not yet taken (R201). -/
def State.offered (s : State) : Option Action := s.out.head?

/-- `out_tag` of an action (R80). -/
def Action.tag : Action → BitVec 3
  | .aToChannel _ => 0b000
  | .bToChannel _ => 0b001
  | .bToApp _ => 0b010
  | .timerStart _ => 0b011
  | .timerStop => 0b100

/-- `out_pkt` of an action; no value where the action does not name it (R80, U-8). -/
def Action.pkt : Action → Option PacketBus
  | .aToChannel p => some p.toBus
  | .bToChannel p => some p.toBus
  | .bToApp _ => none
  | .timerStart _ => none
  | .timerStop => none

/-- `out_msg` of an action; no value where the action does not name it (R80, U-8). -/
def Action.msg : Action → Option Message
  | .aToChannel _ => none
  | .bToChannel _ => none
  | .bToApp m => some m
  | .timerStart _ => none
  | .timerStop => none

/-- `out_dur` of an action; no value where the action does not name it (R80, U-8). -/
def Action.dur : Action → Option Word
  | .aToChannel _ => none
  | .bToChannel _ => none
  | .bToApp _ => none
  | .timerStart d => some d
  | .timerStop => none

/-- What the read-only outputs show: defined only while `cmd_ready = 1` (R180, R202, U-9). -/
structure Readout where
  lastStatus : BitVec 4
  fault : BitVec 2
  cntWindowFull : Word
  cntNewAcks : Word
  cntResent : Word
  cntDelivered : Word
  deriving DecidableEq, Repr

/-- The read-only outputs; no value while a command is in progress (R202; DEDUCED, log entry 16). -/
def State.readout (s : State) : Option Readout :=
  if s.cmdReady then
    some ⟨s.lastStatus.code, s.fault, s.a.cntWindowFull, s.a.cntNewAcks, s.a.cntResent, s.b.cntDelivered⟩
  else none

/-- What the command on the port does as one transaction (R15): a command of R71 by its meaning, a reserved code by the
fault RESERVED_OP (R165). -/
def runCommand (c : Command) (s : State) : Host.Outcome State Fault Refusal :=
  match decode c with
  | .command i => exec i s
  | .reserved _ => .next (s.raiseFault .reservedOp)

/-- Writes the update of the command in progress, which is over then (R200). -/
def State.writeHeld (s : State) : State :=
  match s.held with
  | some u => { s with a := u.a, b := u.b, lastStatus := u.lastStatus, held := none }
  | none => s

/-- The block `s` accepts a command whose whole effect leads to `t` (R200; DEDUCED, log entry 4): without an action the
update is written at once; else the actions are offered, and the update is held until the last has been taken. -/
def State.accept (s t : State) : State :=
  if t.out.isEmpty then { t with held := none }
  else { s with out := t.out, held := some ⟨t.a, t.b, t.lastStatus⟩ }

/-- The environment takes the offered action (R201); after the last, the update is written (R200). -/
def State.takeAction (s : State) : State :=
  if s.out.tail.isEmpty then { s with out := [] }.writeHeld else { s with out := s.out.tail }

/-- Accepts the command on the port (R70, R200). -/
def acceptCommand (c : Command) (s : State) : Host.Outcome State Fault Refusal :=
  match runCommand c s with
  | .next t => .next (s.accept t)
  | .fault r => .fault r
  | .refused r => .refused r

/-- What one sample of the input ports does: `rst` first (R190); then, while a command is in progress, the transfer of
an action if `out_ready` (R201, R206), and no command is accepted (R200); else the acceptance of an offered command
(R70; DESIGN CHOICE, log entries 7 and 18). -/
def applySample (e : PortSample) (s : State) : Host.Outcome State Fault Refusal :=
  if e.rst then .next s.powerOn
  else if s.cmdReady = false then .next (if e.outReady then s.takeAction else s)
  else if e.cmdValid then acceptCommand e.cmd s
  else .next s

/-- One step: the next sample is read and applied. Past the last sample every input is 0 for ever: the block waits for a
command (R181, R191), or, with an action not taken, is stuck (R206, U-10). A configuration that is none of this block is
refused (R7, R8). -/
def clockPorts (s : State) : Host.Outcome State Fault Refusal :=
  if s.cfg.legal then
    match s.env with
    | [] => if s.cmdReady then .next s else .fault .outputStalled
    | e :: rest => applySample e { s with env := rest }
  else .refused .illegalConfiguration

/-- The environment has taken every action of the command in progress, if any, and its update is written (R200). -/
def State.settle (s : State) : State := { s with out := [] }.writeHeld

/-- The sample that offers command `c` and does nothing else. -/
def offer (c : Command) : PortSample := ⟨false, true, c, false⟩

/-- `s` with the command of a table word offered at the next step, the command in progress, if any, being over (DESIGN
CHOICE, log entry 9). -/
def placeTableWord (s : State) (nbits w : Nat) : State :=
  { s.settle with env := offer (tableCommand nbits w) :: s.env }

end Sys2Proof.Machine
end

