-- ==== Sys2Proof/Machine/Step.lean ====
section
/-! DEFINITION. One step of the block, and where the next command is placed. -/

namespace Sys2Proof.Machine

open Sys2Proof

/-- One step: one sample of the input ports (00_scope R15; 70_reset R190 to R206). -/
def step (s : State) : Host.Outcome State Fault Refusal := clockPorts s

/-- `s` with a table word's command where the next step takes its command from (DESIGN CHOICE, log entry 9). -/
def State.withFetchWord (s : State) (nbits w : Nat) : State := placeTableWord s nbits w

end Sys2Proof.Machine
end

