-- ==== Sys2Proof/Machine/Script.lean ====
section
/-! DEFINITION. The command-script notation of 30_encoding R84 to R86, as abstract syntax (DESIGN CHOICE, log entry
15): what a test bench presents to the block, item by item. -/

namespace Sys2Proof.Machine

open Sys2Proof

/-- The test message `Mk`: 20 bytes each `0x61 + (k mod 26)` (R85). -/
def testMessage (k : Nat) : Message := Message.ofBytes (List.replicate 20 (BitVec.ofNat 8 (0x61 + k % 26)))

/-- The operand `data(s, m)` (R86). A number outside 32 bits is reduced modulo 2^32 (DESIGN CHOICE, log entry 15). -/
def dataOperand (c : Config) (s : Int) (m : Message) : Packet := sealPacket ⟨BitVec.ofInt 32 s, c.notInUse, 0, m⟩

/-- The operand `ack(s)` (R86). A number outside 32 bits is reduced modulo 2^32 (DESIGN CHOICE, log entry 15). -/
def ackOperand (c : Config) (s : Int) : Packet :=
  sealPacket ⟨BitVec.ofInt 32 s, BitVec.ofInt 32 s, 0, c.ackFiller⟩

/-- The operand `corrupt(p)` (R86; DEDUCED, log entry 21). -/
def corruptOperand (p : Packet) : Packet := { p with checksum := p.checksum ^^^ 1#32 }

/-- The nonterminal `msg` (R84). -/
inductive MsgTerm where
  | m (k : Nat)
  | fill
  | bytes (l : List Byte)
  deriving DecidableEq, Repr

/-- The nonterminal `field`, which R84 does not define: the names of R76's Field column, `payload[i]` among them, as
vector CK-10 writes it (DESIGN CHOICE, log entry 23). -/
inductive PacketField where
  | seqnum
  | acknum
  | checksum
  | payload (i : Fin 20)
  deriving DecidableEq, Repr

/-- The nonterminal `pkt` (R84). -/
inductive PktTerm where
  | fields (s a c : Int) (m : MsgTerm)
  | data (s : Int) (m : MsgTerm)
  | ack (s : Int)
  | corrupt (p : PktTerm)
  | withField (p : PktTerm) (f : PacketField) (v : Int)
  deriving DecidableEq, Repr

/-- The nonterminal `item` (R84); `code` is a line of the vectors that gives `op=` and the buses alone, as the reserved
codes are written. -/
inductive ScriptItem where
  | rst
  | aInit
  | aTimeout
  | bInit
  | aSubmit (m : MsgTerm)
  | aAckIn (p : PktTerm)
  | bPktIn (p : PktTerm)
  | code (c : Command)
  deriving DecidableEq, Repr

/-- `bytes(...)` has exactly 20 bytes (R84). -/
def MsgTerm.wellFormed : MsgTerm → Bool
  | .m _ => true
  | .fill => true
  | .bytes l => decide (l.length = 20)

/-- The message that a term stands for (R84, R85). -/
def MsgTerm.value (c : Config) : MsgTerm → Message
  | .m k => testMessage k
  | .fill => c.ackFiller
  | .bytes l => Message.ofBytes l

/-- Replaces one field; the checksum is not recomputed (R84). R84 gives `int` no range: a number outside the field is
reduced modulo 2^32, for a payload byte modulo 2^8 (DESIGN CHOICE, log entries 15 and 23). -/
def PacketField.replace (f : PacketField) (p : Packet) (v : Int) : Packet :=
  match f with
  | .seqnum => { p with seqnum := BitVec.ofInt 32 v }
  | .acknum => { p with acknum := BitVec.ofInt 32 v }
  | .checksum => { p with checksum := BitVec.ofInt 32 v }
  | .payload i => { p with payload := p.payload.setByte i (BitVec.ofInt 8 v) }

/-- The packet that a term stands for (R84, R86). R84 gives `int` no range and no reduction: an `int` outside its field
stands for its residue modulo 2^32, after `with payload[i] =` modulo 2^8 (DESIGN CHOICE, log entries 15 and 23). -/
def PktTerm.value (c : Config) : PktTerm → Packet
  | .fields s a k m => ⟨BitVec.ofInt 32 s, BitVec.ofInt 32 a, BitVec.ofInt 32 k, m.value c⟩
  | .data s m => dataOperand c s (m.value c)
  | .ack s => ackOperand c s
  | .corrupt p => corruptOperand (p.value c)
  | .withField p f v => f.replace (p.value c) v

/-- The port sample that presents a script item: the code of R71 with its operand bus (R84). -/
def ScriptItem.sample (c : Config) : ScriptItem → PortSample
  | .rst => ⟨true, false, ⟨0, 0, 0⟩, false⟩
  | .aInit => offer (encode .aInit)
  | .aTimeout => offer (encode .aTimeout)
  | .bInit => offer (encode .bInit)
  | .aSubmit m => offer (encode (.aSubmit (m.value c)))
  | .aAckIn p => offer (encode (.aAckIn (p.value c)))
  | .bPktIn p => offer (encode (.bPktIn (p.value c)))
  | .code k => offer k

/-- Presents one item once the actions of the command before it are taken, and steps (R200). -/
def State.present (s : State) (x : ScriptItem) : Host.Outcome State Fault Refusal :=
  step { s.settle with env := [x.sample s.cfg] }

/-- Runs a script at transaction level (R15), stopping where a step stops. -/
def runScript : List ScriptItem → State → Host.Outcome State Fault Refusal
  | [], s => .next s
  | x :: rest, s =>
    match s.present x with
    | .next t => runScript rest t
    | .fault r => .fault r
    | .refused r => .refused r

end Sys2Proof.Machine
end

