-- ==== Sys2Proof/Safety.lean ====
section
/-! DEFINITION. What counts as a safe run, and the invariants of 10_state R29, R38 and R39 in the words claims use. -/

namespace Sys2Proof.Machine

open Sys2Proof

/-- No fault bit is set in this state. A run is judged by all its states, since `rst` clears the bits (R167). -/
def State.contractKept (s : State) : Bool := decide (s.fault = 0)

/-- `n` steps, stopping where a step stops. -/
def stepMany : Nat → State → Host.Outcome State Fault Refusal
  | 0, s => .next s
  | n + 1, s =>
    match step s with
    | .next t => stepMany n t
    | .fault r => .fault r
    | .refused r => .refused r

/-- Where a good run of `n` steps ends (R167, R206; DEDUCED, log entry 19): no state of the run has a fault bit set,
none of its steps stops, and no command is in progress at its end. None for every other run: one that faults and is
then reset is not good. -/
def goodRun : Nat → State → Option State
  | 0, s => if s.contractKept && s.cmdReady then some s else none
  | n + 1, s =>
    if s.contractKept then
      match step s with
      | .next t => goodRun n t
      | .fault _ => none
      | .refused _ => none
    else none

/-- Where a good run of a script ends, every action taken (R84, R167). None if any of its states has a fault bit set or
any item stops. -/
def goodScript : List ScriptItem → State → Option State
  | [], s => if s.contractKept then some s.settle else none
  | x :: rest, s =>
    if s.contractKept then
      match s.present x with
      | .next t => goodScript rest t
      | .fault _ => none
      | .refused _ => none
    else none

/-- An update is held exactly while actions are pending (R200). -/
def State.HandshakeInv (s : State) : Prop := s.held.isSome = true ↔ s.out ≠ []

/-- `P` holds of the registers as they stand, and as the command in progress, if any, will leave them (R200). -/
def State.Throughout (P : State → Prop) (s : State) : Prop := P s ∧ P s.settle

/-- The sequence registers, the bitmaps and the buffers name only numbers in `[0, S)` (R22 to R25, R28, R30, R31, R53).
-/
def State.InRange (s : State) : Prop :=
  s.a.base < s.cfg.seqSpace ∧ s.a.nextseqnum < s.cfg.seqSpace ∧ s.b.expectedseqnum < s.cfg.seqSpace ∧
  (∀ i ∈ s.a.acked, i < s.cfg.seqSpace) ∧ (∀ i ∈ s.b.received, i < s.cfg.seqSpace) ∧
  (∀ e ∈ s.a.buffer, e.1 < s.cfg.seqSpace) ∧ (∀ e ∈ s.b.recvBuffer, e.1 < s.cfg.seqSpace)

/-- The bitmaps and the buffers are in canonical form (DESIGN CHOICE, log entry 5). -/
def State.Canonical (s : State) : Prop :=
  bitsWf s.a.acked ∧ bitsWf s.b.received ∧ slotsWf s.a.buffer ∧ slotsWf s.b.recvBuffer

/-- A state that is one of this block: a legal configuration, every number in its range, canonical form. -/
def State.WellShaped (s : State) : Prop := s.cfg.Legal ∧ s.InRange ∧ s.Canonical

/-- IA1 (R38): at most `W` packets are outstanding. -/
def State.WindowBounded (s : State) : Prop := s.outstanding ≤ s.cfg.windowSize

/-- IA2 (R38): an acked bit is set only in the outstanding range. -/
def State.AckedOutstanding (s : State) : Prop := ∀ x : Nat, s.acked x = true → s.inOutstanding x = true

/-- IA3 (R38): the timer runs if and only if a packet is outstanding. -/
def State.TimerTracksWindow (s : State) : Prop := s.a.timer = .running ↔ 0 < s.outstanding

/-- IA4 (R38): the base slot of a non-empty window is unacked. -/
def State.BaseUnacked (s : State) : Prop := 0 < s.outstanding → s.acked s.a.base = false

/-- R29 for A: every outstanding slot was written, with the data packet of its own sequence number (R78). -/
def State.OutstandingWritten (s : State) : Prop :=
  ∀ x : Nat, s.inOutstanding x = true → ∃ m, slotLookup s.a.buffer x = some (dataPacket s.cfg x m)

/-- The sender invariants IA1 to IA4 (R38) with R29. -/
def State.SenderInv (s : State) : Prop :=
  s.WindowBounded ∧ s.AckedOutstanding ∧ s.TimerTracksWindow ∧ s.BaseUnacked ∧ s.OutstandingWritten

/-- IB1 (R39): a received bit is set only in the receive window. -/
def State.ReceivedInWindow (s : State) : Prop := ∀ x : Nat, s.received x = true → s.inRecvWindow x = true

/-- IB2 (R39): the expected slot is not received. -/
def State.ExpectedNotReceived (s : State) : Prop := s.received s.b.expectedseqnum = false

/-- R29 for B: every received slot was written, with an uncorrupted packet of its own sequence number. -/
def State.ReceivedWritten (s : State) : Prop :=
  ∀ x : Nat, s.received x = true →
    ∃ p, slotLookup s.b.recvBuffer x = some p ∧ sint32 p.seqnum = x ∧ isCorrupted p = false

/-- The receiver invariants IB1 and IB2 (R39) with R29. -/
def State.ReceiverInv (s : State) : Prop := s.ReceivedInWindow ∧ s.ExpectedNotReceived ∧ s.ReceivedWritten

/-- The external timer after a list of actions: none if a start finds it running or a stop finds it stopped, the usage
errors R176 excludes. -/
def timerAfter : TimerState → List Action → Option TimerState
  | t, [] => some t
  | .stopped, .timerStart _ :: rest => timerAfter .running rest
  | .running, .timerStart _ :: _ => none
  | .running, .timerStop :: rest => timerAfter .stopped rest
  | .stopped, .timerStop :: _ => none
  | t, .aToChannel _ :: rest => timerAfter t rest
  | t, .bToChannel _ :: rest => timerAfter t rest
  | t, .bToApp _ :: rest => timerAfter t rest

/-- The external timer as a command finds it: an `A_TIMEOUT` reports that the instance has expired (R123, R175;
DEDUCED, log entry 20). -/
def timerBefore (i : Instr) (s : State) : TimerState :=
  match i with
  | .aTimeout => .stopped
  | .aInit => s.a.timer
  | .aSubmit _ => s.a.timer
  | .aAckIn _ => s.a.timer
  | .bInit => s.a.timer
  | .bPktIn _ => s.a.timer

end Sys2Proof.Machine
end

