-- ==== Sys2Proof/Certificates/Slice0/Obligations.lean ====
section
/-! DEFINITION. The statements for the provers: the numbered rules of spec/ as propositions about `decode`, `exec` and
`step`. Every statement about a command holds for every configuration a premise does not narrow. -/

open Sys2Proof Sys2Proof.Machine

namespace Sys2Proof.Claims

/-- The reserved codes of R73. -/
def reservedCodes : List (BitVec 4) :=
  [0b0100, 0b0101, 0b0110, 0b0111, 0b1001, 0b1011, 0b1100, 0b1101, 0b1110, 0b1111]

/-- The packets A_TIMEOUT resends, offset by offset, as R122 states the scan. -/
def resentPackets (s : State) : List Packet :=
  (List.range s.cfg.windowSize).filterMap fun i =>
    let x := (s.a.base + i) % s.cfg.seqSpace
    if s.acked x = false ∧ i < s.outstanding then some (s.sentPacket x) else none

/-- What a new ACK for slot `x` does, the slide passing `k` slots (R115, R116): `bit` is the bitmap once `x` is
marked. -/
def NewAckOutcome (s t : State) (x k : Nat) : Prop :=
  let bit := fun y => decide (y = x) || s.acked y
  let slot := fun j => (s.a.base + j) % s.cfg.seqSpace
  (∀ j < k, bit (slot j) = true) ∧ (k = s.cfg.seqSpace ∨ bit (slot k) = false) ∧
  t.a.base = slot k ∧
  (∀ y, t.acked y = (bit y && decide (∀ j < k, slot j ≠ y))) ∧
  t.a.cntNewAcks = s.a.cntNewAcks + 1#32 ∧
  t.lastStatus = .ackNew ∧
  (if t.a.base = s.a.nextseqnum then
    t.a.timer = .stopped ∧ t.out = s.out ++ (if s.a.timer = .running then [.timerStop] else [])
  else
    t.a.timer = .running ∧
      t.out = s.out ++ (if s.a.timer = .running then [.timerStop] else []) ++ [.timerStart s.cfg.rtt]) ∧
  t.a.nextseqnum = s.a.nextseqnum ∧ t.a.buffer = s.a.buffer ∧ t.a.cntWindowFull = s.a.cntWindowFull ∧
  t.a.cntResent = s.a.cntResent ∧ t.b = s.b ∧ t.fault = s.fault ∧ t.cfg = s.cfg ∧ t.env = s.env ∧
  t.held = s.held ∧ t.epoch = s.epoch

/-- Whether B stores an uncorrupted packet (R145, R146). -/
def accepts (s : State) (p : Packet) : Bool :=
  s.inRecvWindow (sint32 p.seqnum) && !s.received (seqIndex p.seqnum)

/-- What an uncorrupted packet does at B, the drain delivering `k` payloads (R145 to R148): `bit` is the bitmap after
the acceptance step. -/
def ArrivalOutcome (s t : State) (p : Packet) (k : Nat) : Prop :=
  let x := seqIndex p.seqnum
  let bit := fun y => s.received y || (accepts s p && decide (y = x))
  let slot := fun j => (s.b.expectedseqnum + j) % s.cfg.seqSpace
  (∀ y, slotLookup t.b.recvBuffer y = if accepts s p = true ∧ y = x then some p else slotLookup s.b.recvBuffer y) ∧
  (∀ j < k, bit (slot j) = true) ∧ (k = s.cfg.seqSpace ∨ bit (slot k) = false) ∧
  t.b.expectedseqnum = slot k ∧
  (∀ y, t.received y = (bit y && decide (∀ j < k, slot j ≠ y))) ∧
  t.b.cntDelivered = s.b.cntDelivered + BitVec.ofNat 32 k ∧
  t.out = s.out ++
    [.bToChannel ⟨p.seqnum, p.seqnum, p.seqnum + p.seqnum + payloadSum s.cfg.ackFiller, s.cfg.ackFiller⟩] ++
    (List.range k).map (fun j => .bToApp (t.heldPacket (slot j)).payload) ∧
  t.lastStatus = (if s.inRecvWindow (sint32 p.seqnum) = false then .pktOutsideWindow
    else if s.received x = true then .pktDuplicate else .pktAccepted) ∧
  t.a = s.a ∧ t.fault = s.fault ∧ t.cfg = s.cfg ∧ t.env = s.env ∧ t.held = s.held ∧ t.epoch = s.epoch

/-- What the output ports show of an action (R80): its tag, its operand on the bus it names, and no value on the others
(log entry 16). -/
def PortsShow (x : Action) : Prop :=
  match x with
  | .aToChannel p => x.tag = 0b000 ∧ x.pkt = some p.toBus ∧ x.msg = none ∧ x.dur = none
  | .bToChannel p => x.tag = 0b001 ∧ x.pkt = some p.toBus ∧ x.msg = none ∧ x.dur = none
  | .bToApp m => x.tag = 0b010 ∧ x.pkt = none ∧ x.msg = some m ∧ x.dur = none
  | .timerStart d => x.tag = 0b011 ∧ x.pkt = none ∧ x.msg = none ∧ x.dur = some d
  | .timerStop => x.tag = 0b100 ∧ x.pkt = none ∧ x.msg = none ∧ x.dur = none

/-- What the read-only outputs show of a ready block (R180, R202). -/
def ReadoutShows (s : State) : Prop :=
  ∃ r, s.readout = some r ∧ r.lastStatus = s.lastStatus.code ∧ r.fault = s.fault ∧
    r.cntWindowFull = s.a.cntWindowFull ∧ r.cntNewAcks = s.a.cntNewAcks ∧ r.cntResent = s.a.cntResent ∧
    r.cntDelivered = s.b.cntDelivered

/-- The timer actions of a list (R80, R175). -/
def timerActions (l : List Action) : List Action :=
  l.filter fun x => match x with
    | .timerStart _ => true
    | .timerStop => true
    | .aToChannel _ => false
    | .bToChannel _ => false
    | .bToApp _ => false

end Sys2Proof.Claims

open Sys2Proof.Claims

/-! ## Encoding -/

/-- R71, R72, R76: no bit of a command is dropped, and each code stands for one command. That `encode` drives the
other buses with zeros is the model's choice (log entry 13). -/
def Obligations.CommandRoundTrip : Prop :=
  (∀ i : Instr, decode (encode i) = .command i) ∧
  (∀ (c : Command) (i : Instr), decode c = .command i → c.op = (encode i).op)

/-- R52, R75, R76: the packet bus, field by field and byte by byte, and back. -/
def Obligations.PacketBusLayout : Prop :=
  (∀ p : Packet, p.toBus.extractLsb' 0 32 = p.seqnum ∧ p.toBus.extractLsb' 32 32 = p.acknum ∧
    p.toBus.extractLsb' 64 32 = p.checksum ∧
    ∀ i < 20, p.toBus.extractLsb' (96 + 8 * i) 8 = p.payload.extractLsb' (8 * i) 8) ∧
  (∀ p : Packet, Packet.ofBus p.toBus = p) ∧ (∀ b : PacketBus, (Packet.ofBus b).toBus = b)

/-- R83: the serialised form is 32 bytes and gives the packet back. The spec takes the form from general knowledge
(log entry 14). -/
def Obligations.SerialisedFormRoundTrip : Prop :=
  ∀ p : Packet, p.serialise.length = 32 ∧ Packet.ofSerialised p.serialise = some p

/-- R73, R165: a reserved code, and no other, faults with RESERVED_OP. -/
def Obligations.ReservedCodesFault : Prop :=
  ∀ (c : Command) (s : State),
    (decode c = .reserved c.op ↔ c.op ∈ reservedCodes) ∧
    (c.op ∈ reservedCodes →
      runCommand c s = .next { s with fault := s.fault ||| 0b01, lastStatus := .faultReservedOp })

/-- R72: a command reads only the operand bus that R71 names. -/
def Obligations.OnlyNamedOperandBusRead : Prop :=
  ∀ c d : Command, c.op = d.op →
    (c.op = 0b0001 → c.msg = d.msg) → (c.op = 0b0010 ∨ c.op = 0b1010 → c.pkt = d.pkt) →
    decode c = decode d ∧ (c.op = 0b0001 → decode c = .command (.aSubmit c.msg)) ∧
    (c.op = 0b0010 → decode c = .command (.aAckIn (Packet.ofBus c.pkt))) ∧
    (c.op = 0b1010 → decode c = .command (.bPktIn (Packet.ofBus c.pkt)))

/-- 95_test_vectors §3, AS-8 and RS-1: words written out from R71, R75 and R76. -/
def Obligations.WrittenOutWordsDecode : Prop :=
  decode ⟨0x0, 0, 0⟩ = .command .aInit ∧
  decode ⟨0x1, 0x1413121110_0F0E0D0C0B_0A09080706_0504030201, 0⟩ =
    .command (.aSubmit (Message.ofBytes ((List.range 20).map fun i => BitVec.ofNat 8 (i + 1)))) ∧
  decode ⟨0x2, 0, 0x3030303030303030303030303030303030303030_000003C2_00000001_00000001⟩ =
    .command (.aAckIn ⟨1, 1, 962, 0x3030303030303030303030303030303030303030⟩) ∧
  decode ⟨0x3, 0, 0⟩ = .command .aTimeout ∧
  decode ⟨0x8, 0, 0⟩ = .command .bInit ∧
  decode ⟨0xA, 0, 0x6161616161616161616161616161616161616161_00000793_FFFFFFFF_00000000⟩ =
    .command (.bPktIn ⟨0, -1, 1939, 0x6161616161616161616161616161616161616161⟩) ∧
  decode ⟨0x4, 0, 0⟩ = .reserved 0x4

/-! ## The checksum validator -/

/-- R90, R93: the sum of seqnum, acknum and the 20 unsigned payload bytes modulo 2^32, whether the fields are read
signed or unsigned; the checksum field is not read, and a packet is corrupted exactly where that field differs from
the sum. -/
def Obligations.ChecksumIsSumModulo : Prop :=
  ∀ p : Packet,
    let bytes := ((List.range 20).map fun i => (p.payload.extractLsb' (8 * i) 8).toNat).sum
    (checksum p).toNat = (p.seqnum.toNat + p.acknum.toNat + bytes) % 2 ^ 32 ∧
    checksum p = BitVec.ofInt 32 (sint32 p.seqnum + sint32 p.acknum + bytes) ∧
    (∀ w : Word, checksum { p with checksum := w } = checksum p) ∧
    (isCorrupted p = true ↔ p.checksum ≠ checksum p)

/-- R91 (an inference the spec marks as derived): the packets the block builds pass validation when they arrive
unchanged, and as the bus carries them. -/
def Obligations.BuiltPacketsPassValidation : Prop :=
  ∀ (c : Config) (n : Nat) (m : Message) (p : Packet),
    isCorrupted (Packet.ofBus (dataPacket c n m).toBus) = false ∧
    isCorrupted (Packet.ofBus (ackPacket c p).toBus) = false

/-- R94 (derived), first part: an alteration of exactly one field, or of exactly one payload byte, is detected. -/
def Obligations.SingleAlterationDetected : Prop :=
  ∀ p : Packet, isCorrupted p = false →
    (∀ w, w ≠ p.seqnum → isCorrupted { p with seqnum := w } = true) ∧
    (∀ w, w ≠ p.acknum → isCorrupted { p with acknum := w } = true) ∧
    (∀ w, w ≠ p.checksum → isCorrupted { p with checksum := w } = true) ∧
    (∀ m : Message, ∀ i < 20, (∀ j < 20, j ≠ i → m.byte j = p.payload.byte j) → m.byte i ≠ p.payload.byte i →
      isCorrupted { p with payload := m } = true)

/-- R94 (derived), second part: alterations that keep the sum are missed: a value moved from acknum to seqnum, a
permutation of the payload bytes, a rewritten checksum. -/
def Obligations.SumPreservingAlterationMissed : Prop :=
  ∀ p : Packet, isCorrupted p = false →
    (∀ k : Word, isCorrupted { p with seqnum := p.seqnum + k, acknum := p.acknum - k } = false) ∧
    (∀ m : Message, m.bytes.Perm p.payload.bytes → isCorrupted { p with payload := m } = false) ∧
    (∀ q : Packet, isCorrupted { q with checksum := checksum q } = false)

/-- R92 (derived): for packets the block builds from valid inputs the sum does not wrap and stays within the stated
bounds. -/
def Obligations.BuiltSumsStaySmall : Prop :=
  ∀ c : Config, c.Legal → ∀ n < c.seqSpace, ∀ m : Message, ∀ p : Packet, p.seqnum = BitVec.ofNat 32 n →
    let bytes := fun x : Message => ((List.range 20).map fun i => (x.byte i).toNat).sum
    (c.notInUse = -1 →
      sint32 (dataPacket c n m).checksum = (n : Int) - 1 + bytes m ∧
      -1 ≤ sint32 (dataPacket c n m).checksum ∧
      sint32 (dataPacket c n m).checksum ≤ (c.seqSpace : Int) - 2 + 5100) ∧
    sint32 (ackPacket c p).checksum = 2 * (n : Int) + bytes c.ackFiller ∧
    0 ≤ sint32 (ackPacket c p).checksum ∧ sint32 (ackPacket c p).checksum ≤ 2 * (c.seqSpace : Int) - 2 + 5100

/-- R86: the script's shorthands are the packets the block builds, and `corrupt` corrupts every packet that passes
validation (log entry 21: R86 says every packet). -/
def Obligations.ShorthandsAreTheBlocksPackets : Prop :=
  ∀ (c : Config) (p : Packet),
    (∀ (n : Nat) (m : Message), dataOperand c n m = dataPacket c n m) ∧
    ackOperand c (sint32 p.seqnum) = ackPacket c p ∧
    (isCorrupted p = false → isCorrupted (corruptOperand p) = true) ∧
    corruptOperand (corruptOperand p) = p

/-! ## Reset -/

/-- R42, R190: a sample with `rst` puts every piece of state at its power-on value, whatever was in progress. The
buffers hold nothing written; the configuration stays. That `rst` alone counts in its sample is the model's choice
(log entry 18), and so are the sample itself and the unlisted slots (log entries 6 and 3). -/
def Obligations.PowerOnReset : Prop :=
  ∀ (s : State) (e : PortSample) (rest : List PortSample), s.cfg.Legal → s.env = e :: rest → e.rst = true →
    ∃ t, step s = .next t ∧
      t.a.base = 0 ∧ t.a.nextseqnum = 0 ∧ (∀ x, t.acked x = false) ∧ t.a.timer = .stopped ∧
      t.a.cntWindowFull = 0 ∧ t.a.cntNewAcks = 0 ∧ t.a.cntResent = 0 ∧
      t.b.expectedseqnum = 0 ∧ (∀ x, t.received x = false) ∧ t.b.cntDelivered = 0 ∧
      t.lastStatus = .initDone ∧ t.fault = 0 ∧ t.cmdReady = true ∧ t.out = [] ∧ t.held = none ∧
      (∀ x, slotLookup t.a.buffer x = none) ∧ (∀ x, slotLookup t.b.recvBuffer x = none) ∧
      t.cfg = s.cfg ∧ t.env = rest

/-- R7, R42: the default block right after power-on, and what its outputs show. The spec takes the defaults of
NOTINUSE and ACK_FILLER from general knowledge (log entry 10). -/
def Obligations.DefaultResetState : Prop :=
  State.reset.cfg.windowSize = 6 ∧ State.reset.cfg.seqSpace = 12 ∧ State.reset.cfg.ackWindowCheck = true ∧
  State.reset.cfg.notInUse = -1 ∧ State.reset.cfg.Legal ∧ State.reset.cfg.seqW = 4 ∧
  (∀ i < 20, State.reset.cfg.ackFiller.byte i = 0x30) ∧
  State.reset.readout = some ⟨0, 0, 0, 0, 0, 0⟩ ∧ State.reset.outValid = false ∧ State.reset.held = none

/-- R38, R39 (both derived): power-on establishes the invariants, for every legal configuration. -/
def Obligations.ResetMeetsInvariants : Prop :=
  ∀ c : Config, c.Legal →
    (State.resetWith c).WellShaped ∧ (State.resetWith c).SenderInv ∧ (State.resetWith c).ReceiverInv ∧
    (State.resetWith c).HandshakeInv ∧ (State.resetWith c).settle = State.resetWith c

/-! ## The sender -/

/-- R101: A_INIT. -/
def Obligations.AInitClearsSender : Prop :=
  ∀ s : State, ∃ t, exec .aInit s = .next t ∧
    t = { s with
      a := { s.a with base := 0, nextseqnum := 0, acked := [], timer := .stopped, cntWindowFull := 0, cntNewAcks := 0,
                      cntResent := 0 }
      out := s.out ++ (if s.a.timer = .running then [.timerStop] else [])
      lastStatus := .initDone } ∧
    t.a = { s.powerOn.a with buffer := s.a.buffer } ∧
    ∃ u, exec .aInit t = .next u ∧ u.out = t.out

/-- R105 to R108: A_SUBMIT, with the window full and not full. -/
def Obligations.SubmitEffect : Prop :=
  ∀ (m : Message) (s : State),
    (s.cfg.windowSize ≤ s.outstanding →
      exec (.aSubmit m) s = .next { s with
        a := { s.a with cntWindowFull := s.a.cntWindowFull + 1#32 }, lastStatus := .droppedWindowFull }) ∧
    (s.outstanding < s.cfg.windowSize →
      let n := s.a.nextseqnum
      let p : Packet := ⟨BitVec.ofNat 32 n, s.cfg.notInUse, BitVec.ofNat 32 n + s.cfg.notInUse + payloadSum m, m⟩
      ∃ t, exec (.aSubmit m) s = .next t ∧
        (∀ x, slotLookup t.a.buffer x = if x = n then some p else slotLookup s.a.buffer x) ∧
        (∀ x, t.acked x = (s.acked x && decide (x ≠ n))) ∧
        t.a.nextseqnum = (n + 1) % s.cfg.seqSpace ∧ t.a.timer = .running ∧
        t.out = s.out ++ [.aToChannel p] ++ (if s.a.timer = .stopped then [.timerStart s.cfg.rtt] else []) ∧
        t.lastStatus = .sent ∧
        t.a.base = s.a.base ∧ t.a.cntWindowFull = s.a.cntWindowFull ∧ t.a.cntNewAcks = s.a.cntNewAcks ∧
        t.a.cntResent = s.a.cntResent ∧ t.b = s.b ∧ t.fault = s.fault ∧ t.cfg = s.cfg ∧ t.env = s.env ∧
        t.held = s.held ∧ t.epoch = s.epoch)

/-- R109 (derived): a sent packet makes one more outstanding, and nextseqnum never comes round to base. -/
def Obligations.SubmitNeverReachesBase : Prop :=
  ∀ (m : Message) (s t : State), s.WellShaped → s.outstanding < s.cfg.windowSize → exec (.aSubmit m) s = .next t →
    t.outstanding = s.outstanding + 1 ∧ 1 ≤ t.outstanding ∧ t.outstanding ≤ s.cfg.windowSize ∧
    t.a.nextseqnum ≠ t.a.base

/-- R162 (a): a corrupted ACK or packet changes last_status only. -/
def Obligations.CorruptionDiscarded : Prop :=
  ∀ (p : Packet) (s : State), p.checksum ≠ checksum p →
    exec (.aAckIn p) s = .next { s with lastStatus := .ackCorrupt } ∧
    exec (.bPktIn p) s = .next { s with lastStatus := .pktCorrupt }

/-- R113: under the window check, an uncorrupted ACK outside the outstanding range changes last_status only. -/
def Obligations.AckOutsideRangeIgnored : Prop :=
  ∀ (p : Packet) (s : State), s.cfg.ackWindowCheck = true → isCorrupted p = false →
    ¬(0 ≤ sint32 p.acknum ∧ sint32 p.acknum < s.cfg.seqSpace ∧
      seqDist s.cfg s.a.base (sint32 p.acknum) < s.outstanding) →
    exec (.aAckIn p) s = .next { s with lastStatus := .ackOutOfWindow }

/-- R114: an ACK for a slot already acked changes last_status only. -/
def Obligations.DuplicateAckIgnored : Prop :=
  ∀ (p : Packet) (s : State), isCorrupted p = false → s.ackInRange (sint32 p.acknum) = true →
    s.acked (seqIndex p.acknum) = true → exec (.aAckIn p) s = .next { s with lastStatus := .ackDuplicate }

/-- R13, R145 and the glossary: the outstanding range and the receive window are the contiguous runs of slots from
base and from expectedseqnum. -/
def Obligations.RangesAreContiguous : Prop :=
  ∀ (s : State) (v : Int), s.WellShaped →
    (s.inOutstanding v = true ↔ ∃ k < s.outstanding, v = ((s.a.base + k) % s.cfg.seqSpace : Nat)) ∧
    s.a.nextseqnum = (s.a.base + s.outstanding) % s.cfg.seqSpace ∧
    (s.inRecvWindow v = true ↔ ∃ k < s.cfg.windowSize, v = ((s.b.expectedseqnum + k) % s.cfg.seqSpace : Nat))

/-- R112, R115, R116, and R118 for the literal mode: what a new ACK does, in every well-shaped state. -/
def Obligations.NewAckEffect : Prop :=
  ∀ (p : Packet) (s : State), s.WellShaped → isCorrupted p = false →
    (if s.cfg.ackWindowCheck = true then s.inOutstanding (sint32 p.acknum) = true
      else 0 ≤ sint32 p.acknum ∧ sint32 p.acknum < s.cfg.seqSpace) →
    s.acked (seqIndex p.acknum) = false →
    ∃ t k, k ≤ s.cfg.seqSpace ∧ exec (.aAckIn p) s = .next t ∧ NewAckOutcome s t (seqIndex p.acknum) k

/-- R115, R116, under the window check: the slide passes at most `outstanding() ≤ W` slots and stops at or before
nextseqnum; the timer runs when the ACK arrives. -/
def Obligations.SlideStopsAtNext : Prop :=
  ∀ (p : Packet) (s : State), s.WellShaped → s.cfg.ackWindowCheck = true → s.SenderInv → isCorrupted p = false →
    s.inOutstanding (sint32 p.acknum) = true → s.acked (seqIndex p.acknum) = false →
    ∃ t k, exec (.aAckIn p) s = .next t ∧ NewAckOutcome s t (seqIndex p.acknum) k ∧
      k ≤ s.outstanding ∧ s.outstanding ≤ s.cfg.windowSize ∧ t.outstanding = s.outstanding - k ∧
      s.a.timer = .running

/-- R118: in literal mode an ACK outside `[0, S)` is ignored. -/
def Obligations.LiteralModeRangeTest : Prop :=
  ∀ (p : Packet) (s : State), s.cfg.ackWindowCheck = false → isCorrupted p = false →
    ¬(0 ≤ sint32 p.acknum ∧ sint32 p.acknum < s.cfg.seqSpace) →
    exec (.aAckIn p) s = .next { s with lastStatus := .ackOutOfWindow }

/-- R118, C1: the literal mode can break the sequence invariant: a state that keeps it, and an ACK that breaks it;
from there every submission is dropped. -/
def Obligations.LiteralModeBreaksInvariant : Prop :=
  ∃ (s t : State) (p : Packet), s.WellShaped ∧ s.cfg.ackWindowCheck = false ∧ s.WindowBounded ∧
    exec (.aAckIn p) s = .next t ∧ ¬t.WindowBounded ∧
    ∀ m, ∃ u, exec (.aSubmit m) t = .next u ∧ u.lastStatus = .droppedWindowFull

/-- R121 to R124, R166: A_TIMEOUT. -/
def Obligations.TimeoutEffect : Prop :=
  ∀ s : State,
    (s.a.timer = .stopped →
      exec .aTimeout s = .next { s with fault := s.fault ||| 0b10, lastStatus := .faultSpuriousTimeout }) ∧
    (s.a.timer = .running →
      exec .aTimeout s = .next { s with
        a := { s.a with cntResent := s.a.cntResent + BitVec.ofNat 32 (resentPackets s).length }
        out := s.out ++ (resentPackets s).map .aToChannel ++ [.timerStart s.cfg.rtt]
        lastStatus := .retransmitted })

/-- R125 (derived): under the invariants an accepted timeout resends between 1 and `W` packets, the base slot's first.
-/
def Obligations.TimeoutResendsSome : Prop :=
  ∀ s : State, s.WellShaped → s.SenderInv → s.a.timer = .running →
    ∃ t l, exec .aTimeout s = .next t ∧
      t.out = s.out ++ (s.sentPacket s.a.base :: l).map .aToChannel ++ [.timerStart s.cfg.rtt] ∧
      l.length + 1 ≤ s.outstanding ∧ s.outstanding ≤ s.cfg.windowSize ∧
      t.a.cntResent = s.a.cntResent + BitVec.ofNat 32 (l.length + 1)

/-- R64, R29 (both derived): a resent packet is the very packet A_SUBMIT built for its slot, an outstanding one. -/
def Obligations.ResentPacketsAreOriginals : Prop :=
  ∀ (s t : State) (q : Packet), s.WellShaped → s.SenderInv → exec .aTimeout s = .next t →
    .aToChannel q ∈ t.out → .aToChannel q ∉ s.out →
    ∃ (x : Nat) (m : Message), s.inOutstanding x = true ∧ slotLookup s.a.buffer x = some q ∧ q = dataPacket s.cfg x m

/-- R24, R64 (derived): only A_SUBMIT writes a slot of A.buffer, and only the slot nextseqnum names. -/
def Obligations.SentSlotWrittenOnlyBySubmit : Prop :=
  ∀ (i : Instr) (s t : State) (x : Nat), exec i s = .next t →
    slotLookup t.a.buffer x = slotLookup s.a.buffer x ∨
    (∃ m, i = .aSubmit m ∧ x = s.a.nextseqnum ∧ s.outstanding < s.cfg.windowSize ∧
      slotLookup t.a.buffer x = some (dataPacket s.cfg x m) ∧ .aToChannel (dataPacket s.cfg x m) ∈ t.out)

/-! ## The receiver -/

/-- R141: B_INIT. -/
def Obligations.BInitClearsReceiver : Prop :=
  ∀ s : State, ∃ t, exec .bInit s = .next t ∧
    t = { s with b := { s.b with expectedseqnum := 0, received := [], cntDelivered := 0 }, lastStatus := .initDone } ∧
    (∀ x, t.received x = false) ∧ (∀ x, t.heldPacket x = s.heldPacket x) ∧
    t.b = { s.powerOn.b with recvBuffer := s.b.recvBuffer }

/-- R144 to R148: what an uncorrupted packet does, in every well-shaped state. -/
def Obligations.ArrivalEffect : Prop :=
  ∀ (p : Packet) (s : State), s.WellShaped → isCorrupted p = false →
    ∃ t k, k ≤ s.cfg.seqSpace ∧ exec (.bPktIn p) s = .next t ∧ ArrivalOutcome s t p k

/-- R147: under the invariants the drain delivers at most `W` payloads, and some only after an acceptance at
expectedseqnum. -/
def Obligations.DrainBoundedByWindow : Prop :=
  ∀ (p : Packet) (s : State), s.WellShaped → s.ReceiverInv → isCorrupted p = false →
    ∃ t k, exec (.bPktIn p) s = .next t ∧ ArrivalOutcome s t p k ∧ k ≤ s.cfg.windowSize ∧
      (0 < k ↔ sint32 p.seqnum = s.b.expectedseqnum)

/-- R149 (derived), 'Idempotent re-ACK': the same packet again gives its ACK again, no delivery and no change of B. -/
def Obligations.SecondCopyOnlyReacked : Prop :=
  ∀ (p : Packet) (s t : State), s.WellShaped → s.ReceiverInv → isCorrupted p = false → exec (.bPktIn p) s = .next t →
    ∃ u, exec (.bPktIn p) t = .next u ∧ u.b = t.b ∧ u.out = t.out ++ [.bToChannel (ackPacket s.cfg p)] ∧
      (u.lastStatus = .pktDuplicate ∨ u.lastStatus = .pktOutsideWindow)

/-- R150: B never tests acknum: two uncorrupted packets that differ in acknum (and so in checksum) alone have the same
actions, the same status and the same effect, but for the stored packet itself. -/
def Obligations.ReceiverIgnoresAcknum : Prop :=
  ∀ (p q : Packet) (s t u : State), s.WellShaped → isCorrupted p = false → isCorrupted q = false →
    p.seqnum = q.seqnum → p.payload = q.payload → exec (.bPktIn p) s = .next t → exec (.bPktIn q) s = .next u →
    t.out = u.out ∧ t.lastStatus = u.lastStatus ∧ t.b.expectedseqnum = u.b.expectedseqnum ∧
    t.b.received = u.b.received ∧ t.b.cntDelivered = u.b.cntDelivered ∧ t.a = u.a ∧ t.fault = u.fault

/-- R30, R65 (derived): only B_PKT_IN writes a slot of B.recv_buffer, with the packet it accepts, and never a slot
whose received bit is 1. -/
def Obligations.HeldSlotNotOverwritten : Prop :=
  ∀ (i : Instr) (s t : State) (x : Nat), exec i s = .next t → s.cfg.Legal → s.b.expectedseqnum < s.cfg.seqSpace →
    slotLookup t.b.recvBuffer x = slotLookup s.b.recvBuffer x ∨
    (∃ p, i = .bPktIn p ∧ isCorrupted p = false ∧ sint32 p.seqnum = x ∧ s.inRecvWindow x = true ∧
      s.received x = false ∧ slotLookup t.b.recvBuffer x = some p)

/-! ## Outcomes, faults, the timer -/

/-- R160, R161: every command completes, with a status of its own column, or faults and goes on; no status has a
reserved code; nothing that can stand on the command port stops the block. -/
def Obligations.EveryCommandCompletes : Prop :=
  (∀ (i : Instr) (s : State), ∃ t, exec i s = .next t ∧ t.lastStatus ∈ commandStatuses i ∧
    t.lastStatus.code ≠ 0xC ∧ t.lastStatus.code ≠ 0xD) ∧
  (∀ (c : Command) (s : State), ∃ t, runCommand c s = .next t ∧
    (t.lastStatus = .faultReservedOp ↔ c.op ∈ reservedCodes))

/-- R168: no command but a spurious A_TIMEOUT changes the fault register. -/
def Obligations.NoOtherConditionFaults : Prop :=
  ∀ (i : Instr) (s t : State), exec i s = .next t →
    (i = .aTimeout ∧ s.a.timer = .stopped ∧ t.fault = s.fault ||| 0b10) ∨
    (¬(i = .aTimeout ∧ s.a.timer = .stopped) ∧ t.fault = s.fault)

/-- R34, R167: a step clears a fault bit only by `rst` (the samples of log entry 6). -/
def Obligations.FaultBitsAreSticky : Prop :=
  ∀ (s t : State), step s = .next t → (∀ e rest, s.env = e :: rest → e.rst = false) → s.fault &&& t.fault = s.fault

/-- R100 (derived): the transition table of the sender, row by row, with the timer actions of each row. -/
def Obligations.TimerTransitionTable : Prop :=
  ∀ (i : Instr) (s t : State), s.WellShaped → s.cfg.ackWindowCheck = true → s.SenderInv → exec i s = .next t →
    ∃ acts, t.out = s.out ++ acts ∧
    match i with
    | .aInit => t.a.timer = .stopped ∧ timerActions acts = if s.a.timer = .running then [.timerStop] else []
    | .aSubmit _ =>
      if s.outstanding < s.cfg.windowSize then
        t.a.timer = .running ∧ timerActions acts = if s.a.timer = .stopped then [.timerStart s.cfg.rtt] else []
      else t.a.timer = s.a.timer ∧ timerActions acts = []
    | .aAckIn _ =>
      if t.lastStatus = .ackNew then
        s.a.timer = .running ∧
        (if t.a.base = t.a.nextseqnum then t.a.timer = .stopped ∧ timerActions acts = [.timerStop]
          else t.a.timer = .running ∧ timerActions acts = [.timerStop, .timerStart s.cfg.rtt])
      else t.a.timer = s.a.timer ∧ timerActions acts = []
    | .aTimeout =>
      t.a.timer = s.a.timer ∧
      (if s.a.timer = .running then timerActions acts = [.timerStart s.cfg.rtt]
        else timerActions acts = [] ∧ t.lastStatus = .faultSpuriousTimeout)
    | .bInit => t.a.timer = s.a.timer ∧ timerActions acts = []
    | .bPktIn _ => t.a.timer = s.a.timer ∧ timerActions acts = []

/-- R176 (derived): the timer actions of a command never start a running timer nor stop a stopped one, and leave the
external timer as `A.timer_running` says. -/
def Obligations.StopBeforeStart : Prop :=
  ∀ (i : Instr) (s t : State), exec i s = .next t →
    ∃ acts, t.out = s.out ++ acts ∧ timerAfter (timerBefore i s) acts = some t.a.timer

/-- R81 (derived): what a command emits: A's commands to the channel and the timer, B's to the channel and the
application. -/
def Obligations.ActionKindsByEntity : Prop :=
  ∀ (i : Instr) (s t : State), exec i s = .next t →
    ∃ acts, t.out = s.out ++ acts ∧ ∀ x ∈ acts,
      (i.entity = .a → x.tag = 0b000 ∨ x.tag = 0b011 ∨ x.tag = 0b100) ∧
      (i.entity = .b → x.tag = 0b001 ∨ x.tag = 0b010)

/-! ## Frames, isolation -/

/-- R36 (derived): what each command leaves unchanged. -/
def Obligations.CommandFrames : Prop :=
  ∀ (i : Instr) (s t : State), exec i s = .next t →
    t.cfg = s.cfg ∧ t.env = s.env ∧ t.held = s.held ∧ t.epoch = s.epoch ∧ s.out <+: t.out ∧
    match i with
    | .aInit => t.b = s.b ∧ t.fault = s.fault ∧ ∀ x, t.sentPacket x = s.sentPacket x
    | .aSubmit _ => t.b = s.b ∧ t.fault = s.fault ∧ t.a.base = s.a.base ∧ t.a.cntNewAcks = s.a.cntNewAcks ∧
        t.a.cntResent = s.a.cntResent ∧
        ∀ x, x ≠ s.a.nextseqnum → t.sentPacket x = s.sentPacket x ∧ t.acked x = s.acked x
    | .aAckIn _ => t.b = s.b ∧ t.fault = s.fault ∧ t.a.nextseqnum = s.a.nextseqnum ∧
        t.a.cntWindowFull = s.a.cntWindowFull ∧ t.a.cntResent = s.a.cntResent ∧ ∀ x, t.sentPacket x = s.sentPacket x
    | .aTimeout => t.b = s.b ∧ t.a.base = s.a.base ∧ t.a.nextseqnum = s.a.nextseqnum ∧ t.a.acked = s.a.acked ∧
        t.a.timer = s.a.timer ∧ t.a.cntWindowFull = s.a.cntWindowFull ∧ t.a.cntNewAcks = s.a.cntNewAcks ∧
        t.fault.getLsbD 0 = s.fault.getLsbD 0 ∧ ∀ x, t.sentPacket x = s.sentPacket x
    | .bInit => t.a = s.a ∧ t.fault = s.fault ∧ t.out = s.out ∧ ∀ x, t.heldPacket x = s.heldPacket x
    | .bPktIn p => t.a = s.a ∧ t.fault = s.fault ∧
        ∀ x, x ≠ seqIndex p.seqnum → t.heldPacket x = s.heldPacket x

/-- R20, R56: a command of one entity neither reads nor writes the other's record. -/
def Obligations.EntitiesIsolated : Prop :=
  ∀ (i : Instr) (s t : State), exec i s = .next t →
    (i.entity = .a → ∀ b : Receiver, exec i { s with b := b } = .next { t with b := b }) ∧
    (i.entity = .b → ∀ a : Sender, exec i { s with a := a } = .next { t with a := a })

/-- R178 (derived): commands to different agents commute but for last_status and the order of their actions. -/
def Obligations.AgentsCommute : Prop :=
  ∀ (i j : Instr) (s t u t' u' : State), i.entity = .a → j.entity = .b →
    exec i s = .next t → exec j t = .next u → exec j s = .next t' → exec i t' = .next u' →
    u.a = u'.a ∧ u.b = u'.b ∧ u.fault = u'.fault ∧ u.cfg = u'.cfg ∧ u.env = u'.env ∧ u.held = u'.held ∧
    u.epoch = u'.epoch ∧
    ∃ xs ys, t.out = s.out ++ xs ∧ t'.out = s.out ++ ys ∧ u.out = s.out ++ xs ++ ys ∧ u'.out = s.out ++ ys ++ xs

/-- R29 (derived), R42: under the invariants no command shows what an unwritten slot holds: another free content of
the unwritten slots (another `epoch`, log entry 3) changes nothing. -/
def Obligations.UnwrittenSlotsNeverSeen : Prop :=
  ∀ (i : Instr) (s t : State) (n : Nat), s.WellShaped → s.SenderInv → s.ReceiverInv → exec i s = .next t →
    exec i { s with epoch := n } = .next { t with epoch := n }

/-! ## The ports -/

/-- R15, R70, R165, R200: with `cmd_ready = 1` a step accepts exactly the command offered: `exec` of the decoded command
on the state with the sample consumed. Its update is written at once where it emits no action; else its actions are
offered, the registers stay and the update is held. A reserved code takes its fault. The samples are the model's (log
entries 6 and 7), and that the held update is computed at the acceptance is log entry 4. -/
def Obligations.StepRunsDecodedCommand : Prop :=
  ∀ (s : State) (e : PortSample) (rest : List PortSample), s.cfg.Legal → s.env = e :: rest → e.rst = false →
    s.cmdReady = true → e.cmdValid = true →
    (∀ i, decode e.cmd = .command i → ∃ t, exec i { s with env := rest } = .next t ∧
      (t.out = [] → step s = .next { t with held := none }) ∧
      (t.out ≠ [] → step s =
        .next { s with env := rest, out := t.out, held := some ⟨t.a, t.b, t.lastStatus⟩ })) ∧
    (∀ w, decode e.cmd = .reserved w → step s =
      .next { s with env := rest, fault := s.fault ||| 0b01, lastStatus := .faultReservedOp, held := none })

/-- R200, R201: from the acceptance on, the command's actions leave in order, one a step where `out_ready`; until the
last has been taken no register changes and `cmd_ready` is 0, whatever stands on the command port; then the block is
ready with exactly the command's effect. One transfer a step is log entry 7, the samples log entry 6, and that a
command without an action writes its update in the accepting step log entry 4. -/
def Obligations.CommandFinishesAsExec : Prop :=
  ∀ (s t : State) (e : PortSample) (takes rest : List PortSample) (i : Instr), s.cfg.Legal → s.cmdReady = true →
    e.rst = false → e.cmdValid = true → decode e.cmd = .command i → exec i { s with env := rest } = .next t →
    takes.length = t.out.length → (∀ x ∈ takes, x.rst = false ∧ x.outReady = true) → s.env = e :: (takes ++ rest) →
    stepMany (t.out.length + 1) s = .next { t with out := [], held := none } ∧
    ∀ j < t.out.length, ∃ v, stepMany (j + 1) s = .next v ∧ v.out = t.out.drop j ∧ v.cmdReady = false ∧
      v.a = s.a ∧ v.b = s.b ∧ v.lastStatus = s.lastStatus ∧ v.fault = s.fault

/-- R200, R201, R206, R80: while a command is in progress no command is accepted. The oldest action is offered, with
its operand on the bus it names; it leaves if `out_ready`, else it is held; no register changes before the last action
has left, and with it the held update is written. The read-only outputs have no value (R202). One transfer a step is
the model's choice (log entry 7), and so are the samples (log entry 6), the update held from the acceptance on (log
entry 4) and the absent values of unnamed buses (log entry 16). -/
def Obligations.BusyBlockOnlyTransfers : Prop :=
  ∀ (s : State) (e : PortSample) (rest : List PortSample) (x : Action) (l : List Action) (h : Update),
    s.cfg.Legal → s.env = e :: rest → e.rst = false → s.out = x :: l → s.held = some h →
    s.cmdReady = false ∧ s.outValid = true ∧ s.readout = none ∧ s.offered = some x ∧ PortsShow x ∧
    (e.outReady = false → step s = .next { s with env := rest }) ∧
    (e.outReady = true → l ≠ [] → step s = .next { s with env := rest, out := l }) ∧
    (e.outReady = true → l = [] → step s =
      .next { s with env := rest, out := [], a := h.a, b := h.b, lastStatus := h.lastStatus, held := none })

/-- R21, R181, R191, R202: a ready block that is offered no command does nothing, whether a sample is driven or none any
more, and its read-only outputs show the registers. The samples are the model's (log entry 6). -/
def Obligations.IdleBlockWaits : Prop :=
  ∀ s : State, s.cfg.Legal → s.out = [] →
    s.cmdReady = true ∧ s.outValid = false ∧ ReadoutShows s ∧
    (s.env = [] → step s = .next s) ∧
    (∀ (e : PortSample) (rest : List PortSample), s.env = e :: rest → e.rst = false → e.cmdValid = false →
      step s = .next { s with env := rest })

/-- R205, R57: what the environment drives later has no effect on a step (the samples of log entry 6). -/
def Obligations.LaterDrivesHaveNoEffect : Prop :=
  ∀ (s t : State) (e : PortSample) (rest rest' : List PortSample),
    step { s with env := e :: rest } = .next t → step { s with env := e :: rest' } = .next { t with env := rest' }

/-- R160, R206, U-10: a block of a legal configuration stops only where it is stuck: an action waits and the
environment drives nothing any more (log entry 17). -/
def Obligations.OnlyBackPressureStops : Prop :=
  ∀ s : State, s.cfg.Legal →
    ((s.env ≠ [] ∨ s.out = []) → ∃ t, step s = .next t) ∧
    (s.env = [] → s.out ≠ [] → step s = .fault .outputStalled)

/-- R7, R8, U-11, U-12: which configurations are refused, and only those. That the state carries the configuration is
the model's choice (log entry 1). -/
def Obligations.IllegalConfigurationRefused : Prop :=
  ∀ s : State, step s = .refused .illegalConfiguration ↔
    ¬(1 ≤ s.cfg.windowSize ∧ s.cfg.windowSize ≤ 2 ^ 28 ∧ s.cfg.seqSpace = 2 * s.cfg.windowSize)

/-- R35: no step changes the configuration, which the state carries by the model's choice (log entry 1). -/
def Obligations.ConfigurationFixed : Prop := ∀ s t : State, step s = .next t → t.cfg = s.cfg

/-- R167, R206: a good run ends in a ready block and has no fault bit set in any of its states; a run in which a command
faults is never one, also where `rst` clears the bit later (log entry 19). -/
def Obligations.FaultedRunIsNeverGood : Prop :=
  ∀ (n : Nat) (s : State),
    (∀ t, goodRun n s = some t ↔
      stepMany n s = .next t ∧ t.cmdReady = true ∧ ∀ k ≤ n, ∃ u, stepMany k s = .next u ∧ u.fault = 0) ∧
    (∀ (k : Nat) (u : State) (e : PortSample) (rest : List PortSample), k < n → stepMany k s = .next u →
      u.cmdReady = true → u.env = e :: rest → e.rst = false → e.cmdValid = true →
      (e.cmd.op ∈ reservedCodes ∨ (e.cmd.op = 0b0011 ∧ u.a.timer = .stopped)) → goodRun n s = none)

/-! ## Invariants that every step keeps -/

/-- R200: a step keeps that an update is held exactly while actions are pending (log entry 4). -/
def Obligations.StepKeepsHandshake : Prop := ∀ s t : State, s.HandshakeInv → step s = .next t → t.HandshakeInv

/-- R22 to R31, R53: a step keeps every number in its range, in both modes, and the canonical form of log entry 5, in
the registers as they stand and as the command in progress will leave them. -/
def Obligations.StepKeepsShape : Prop :=
  ∀ s t : State, s.Throughout State.WellShaped → step s = .next t → t.Throughout State.WellShaped

/-- R38, R29 (both derived): with ACK_WINDOW_CHECK = true a step keeps IA1 to IA4 and that every outstanding slot is
written, in the registers as they stand and as the command in progress will leave them. -/
def Obligations.StepKeepsSenderInvariants : Prop :=
  ∀ s t : State, s.Throughout State.WellShaped → s.cfg.ackWindowCheck = true → s.Throughout State.SenderInv →
    step s = .next t → t.Throughout State.SenderInv

/-- R39, R29 (both derived): a step keeps IB1, IB2 and that every received slot is written with its own packet, in the
registers as they stand and as the command in progress will leave them. -/
def Obligations.StepKeepsReceiverInvariants : Prop :=
  ∀ s t : State, s.Throughout State.WellShaped → s.Throughout State.ReceiverInv → step s = .next t →
    t.Throughout State.ReceiverInv
end

