-- ==== Sys2Proof/Laws/Checksum.lean ====
section
/-! SUPPORT. The validator's small lemmas (40_checksum R90, R93): when a packet is corrupted, and the payload sum as a
number. -/

namespace Sys2Proof.Machine

open Sys2Proof

theorem isCorrupted_iff {p : Packet} : isCorrupted p = true ↔ p.checksum ≠ checksum p := by
  rw [isCorrupted, decide_eq_true_iff]

theorem not_isCorrupted_iff {p : Packet} : isCorrupted p = false ↔ p.checksum = checksum p := by
  rw [isCorrupted, decide_eq_false_iff_not, not_not]

/-- A packet with its checksum filled in is never corrupted (R91). -/
@[simp] theorem isCorrupted_sealPacket (p : Packet) : isCorrupted (sealPacket p) = false := by
  rw [not_isCorrupted_iff]
  simp only [sealPacket, checksum]

theorem sum_setWidth (l : List Byte) :
    ((l.map fun b => b.setWidth 32).sum : Word) = BitVec.ofNat 32 (l.map BitVec.toNat).sum := by
  induction l with
  | nil => rfl
  | cons b l ih =>
    have hb : (b.setWidth 32 : Word) = BitVec.ofNat 32 b.toNat := by
      apply BitVec.eq_of_toNat_eq
      rw [BitVec.toNat_setWidth, BitVec.toNat_ofNat]
    rw [List.map_cons, List.sum_cons, ih, hb, List.map_cons, List.sum_cons, BitVec.ofNat_add]

/-- The payload sum is the sum of the bytes as numbers, modulo 2^32. -/
theorem payloadSum_eq (m : Message) :
    payloadSum m = BitVec.ofNat 32 ((List.range 20).map fun i => (m.byte i).toNat).sum := by
  rw [payloadSum, sum_setWidth, Message.bytes, List.map_map]
  rfl

/-- `n` bytes sum to at most `255·n`. -/
theorem byteSum_le (m : Message) (n : Nat) : ((List.range n).map fun i => (m.byte i).toNat).sum ≤ 255 * n := by
  induction n with
  | zero => simp
  | succ n ih =>
    have := (m.byte n).isLt
    simp only [List.range_succ, List.map_append, List.sum_append, List.map_cons, List.map_nil, List.sum_cons,
      List.sum_nil]
    omega

theorem getLsbD_byteMask (k : Nat) : (255#160).getLsbD k = decide (k < 8) := by
  have h : 255#160 = (BitVec.allOnes 8).setWidth 160 := by decide
  rw [h, BitVec.getLsbD_setWidth, BitVec.getLsbD_allOnes, Bool.and_eq_right_iff_imp]
  simp only [decide_eq_true_eq]
  omega

/-- Replacing a payload byte replaces that byte alone (R75, R84). -/
theorem byte_setByte (m : Message) (b : Byte) {i j : Nat} (hj : j < 20) :
    (m.setByte i b).byte j = if j = i then b else m.byte j := by
  apply BitVec.eq_of_getLsbD_eq
  intro k hk
  have hn : 8 * j + k < 160 := by omega
  simp only [Message.byte, Message.setByte, BitVec.getLsbD_extractLsb', BitVec.getLsbD_or, BitVec.getLsbD_and,
    BitVec.getLsbD_not, BitVec.getLsbD_shiftLeft, BitVec.getLsbD_setWidth, getLsbD_byteMask, hk, hn]
  rcases lt_trichotomy j i with h | rfl | h
  · have h1 : 8 * j + k < 8 * i := by omega
    simp [h1, h.ne, hk]
  · have h1 : k < 160 := by omega
    simp [hk, h1]
  · have h1 : ¬8 * j + k < 8 * i := by omega
    have h2 : ¬8 * j + k - 8 * i < 8 := by omega
    simp [h1, h2, h.ne', hk, BitVec.getLsbD_of_ge b _ (not_lt.mp h2)]

end Sys2Proof.Machine
end

