-- ==== Sys2Proof/Laws/Seq.lean ====
section
/-! SUPPORT. The arithmetic of sequence numbers (00_scope R13) as case splits that omega can use. -/

namespace Sys2Proof.Machine

open Sys2Proof

variable {c : Config}

/-- What a legal configuration is (R7, R8). -/
theorem legal_iff : c.Legal ↔ 1 ≤ c.windowSize ∧ c.windowSize ≤ 2 ^ 28 ∧ c.seqSpace = 2 * c.windowSize := by
  simp [Config.Legal, Config.legal, Config.windowPositive, Config.windowBounded, Config.spaceDoubled, and_assoc]

theorem inc_eq {x : Nat} (hx : x < c.seqSpace) : inc c x = if x + 1 = c.seqSpace then 0 else x + 1 := by
  unfold inc
  split
  · rename_i h; rw [h, Nat.mod_self]
  · exact Nat.mod_eq_of_lt (by omega)

theorem inc_lt {x : Nat} (hx : x < c.seqSpace) : inc c x < c.seqSpace := Nat.mod_lt _ (by omega)

theorem ahead_eq {x i : Nat} (hx : x < c.seqSpace) (hi : i ≤ c.seqSpace) :
    ahead c x i = if x + i < c.seqSpace then x + i else x + i - c.seqSpace := by
  unfold ahead
  split
  · exact Nat.mod_eq_of_lt ‹_›
  · rw [Nat.mod_eq_sub_mod (by omega), Nat.mod_eq_of_lt (by omega)]

theorem ahead_lt {x i : Nat} (hx : x < c.seqSpace) : ahead c x i < c.seqSpace := Nat.mod_lt _ (by omega)

@[simp] theorem ahead_zero {x : Nat} (hx : x < c.seqSpace) : ahead c x 0 = x := Nat.mod_eq_of_lt hx

theorem ahead_inc (x i : Nat) : ahead c (inc c x) i = ahead c x (i + 1) := by
  simp only [ahead, inc, Nat.mod_add_mod]
  congr 1
  omega

theorem seqDist_eq {a b : Nat} (ha : a < c.seqSpace) (hb : b < c.seqSpace) :
    seqDist c a b = if a ≤ b then b - a else b + c.seqSpace - a := by
  unfold seqDist
  split
  · rw [Int.emod_eq_of_lt (by omega) (by omega)]; omega
  · rw [← Int.add_emod_right, Int.emod_eq_of_lt (by omega) (by omega)]; omega

theorem seqDist_lt {a b : Nat} (ha : a < c.seqSpace) (hb : b < c.seqSpace) : seqDist c a b < c.seqSpace := by
  rw [seqDist_eq ha hb]; split <;> omega

/-- Walking the distance arrives. -/
theorem ahead_seqDist {a b : Nat} (ha : a < c.seqSpace) (hb : b < c.seqSpace) : ahead c a (seqDist c a b) = b := by
  rw [ahead_eq ha (seqDist_lt ha hb).le, seqDist_eq ha hb]
  split <;> split <;> omega

/-- The distance to a slot fewer than `S` steps ahead is the number of steps. -/
theorem seqDist_ahead {a i : Nat} (ha : a < c.seqSpace) (hi : i < c.seqSpace) : seqDist c a (ahead c a i) = i := by
  rw [seqDist_eq ha (ahead_lt ha), ahead_eq ha hi.le]
  split <;> split <;> omega

/-- Slots fewer than `S` steps ahead differ where the steps differ. -/
theorem ahead_inj {a i j : Nat} (ha : a < c.seqSpace) (hi : i < c.seqSpace) (hj : j < c.seqSpace)
    (h : ahead c a i = ahead c a j) : i = j := by
  have := seqDist_ahead ha hi
  rw [h, seqDist_ahead ha hj] at this
  exact this.symm

theorem inSeqRange_iff {v : Int} : inSeqRange c v = true ↔ 0 ≤ v ∧ v < c.seqSpace := by simp [inSeqRange]

theorem inSeqRange_nat {x : Nat} : inSeqRange c x = true ↔ x < c.seqSpace := by
  rw [inSeqRange_iff]; omega

/-- A field whose number is in range names that number (R53). -/
theorem seqIndex_cast {w : Word} (h : inSeqRange c (sint32 w) = true) : ((seqIndex w : Nat) : Int) = sint32 w :=
  Int.toNat_of_nonneg (inSeqRange_iff.mp h).1

theorem seqIndex_lt {w : Word} (h : inSeqRange c (sint32 w) = true) : seqIndex w < c.seqSpace := by
  have := inSeqRange_iff.mp h
  unfold seqIndex
  omega

end Sys2Proof.Machine
end

