-- ==== Sys2Proof/Laws/State.lean ====
section
/-! SUPPORT. One lemma per field of State per update, so that no later proof unfolds a record update. -/

namespace Sys2Proof.Machine

open Sys2Proof

@[simp] theorem emit_cfg (s : State) (x : Action) : (s.emit x).cfg = s.cfg := rfl
@[simp] theorem emit_a (s : State) (x : Action) : (s.emit x).a = s.a := rfl
@[simp] theorem emit_b (s : State) (x : Action) : (s.emit x).b = s.b := rfl
@[simp] theorem emit_lastStatus (s : State) (x : Action) : (s.emit x).lastStatus = s.lastStatus := rfl
@[simp] theorem emit_fault (s : State) (x : Action) : (s.emit x).fault = s.fault := rfl
@[simp] theorem emit_out (s : State) (x : Action) : (s.emit x).out = s.out ++ [x] := rfl
@[simp] theorem emit_env (s : State) (x : Action) : (s.emit x).env = s.env := rfl
@[simp] theorem emit_epoch (s : State) (x : Action) : (s.emit x).epoch = s.epoch := rfl
@[simp] theorem emit_held (s : State) (x : Action) : (s.emit x).held = s.held := rfl

@[simp] theorem setStatus_cfg (s : State) (c : Status) : (s.setStatus c).cfg = s.cfg := rfl
@[simp] theorem setStatus_a (s : State) (c : Status) : (s.setStatus c).a = s.a := rfl
@[simp] theorem setStatus_b (s : State) (c : Status) : (s.setStatus c).b = s.b := rfl
@[simp] theorem setStatus_lastStatus (s : State) (c : Status) : (s.setStatus c).lastStatus = c := rfl
@[simp] theorem setStatus_fault (s : State) (c : Status) : (s.setStatus c).fault = s.fault := rfl
@[simp] theorem setStatus_out (s : State) (c : Status) : (s.setStatus c).out = s.out := rfl
@[simp] theorem setStatus_env (s : State) (c : Status) : (s.setStatus c).env = s.env := rfl
@[simp] theorem setStatus_epoch (s : State) (c : Status) : (s.setStatus c).epoch = s.epoch := rfl
@[simp] theorem setStatus_held (s : State) (c : Status) : (s.setStatus c).held = s.held := rfl

@[simp] theorem raiseFault_cfg (s : State) (f : FaultBit) : (s.raiseFault f).cfg = s.cfg := rfl
@[simp] theorem raiseFault_a (s : State) (f : FaultBit) : (s.raiseFault f).a = s.a := rfl
@[simp] theorem raiseFault_b (s : State) (f : FaultBit) : (s.raiseFault f).b = s.b := rfl
@[simp] theorem raiseFault_lastStatus (s : State) (f : FaultBit) : (s.raiseFault f).lastStatus = f.status := rfl
@[simp] theorem raiseFault_fault (s : State) (f : FaultBit) : (s.raiseFault f).fault = s.fault ||| f.mask := rfl
@[simp] theorem raiseFault_out (s : State) (f : FaultBit) : (s.raiseFault f).out = s.out := rfl
@[simp] theorem raiseFault_env (s : State) (f : FaultBit) : (s.raiseFault f).env = s.env := rfl
@[simp] theorem raiseFault_epoch (s : State) (f : FaultBit) : (s.raiseFault f).epoch = s.epoch := rfl
@[simp] theorem raiseFault_held (s : State) (f : FaultBit) : (s.raiseFault f).held = s.held := rfl

@[simp] theorem startTimer_cfg (s : State) : s.startTimer.cfg = s.cfg := rfl
@[simp] theorem startTimer_a (s : State) : s.startTimer.a = { s.a with timer := .running } := rfl
@[simp] theorem startTimer_b (s : State) : s.startTimer.b = s.b := rfl
@[simp] theorem startTimer_lastStatus (s : State) : s.startTimer.lastStatus = s.lastStatus := rfl
@[simp] theorem startTimer_fault (s : State) : s.startTimer.fault = s.fault := rfl
@[simp] theorem startTimer_out (s : State) : s.startTimer.out = s.out ++ [.timerStart s.cfg.rtt] := rfl
@[simp] theorem startTimer_env (s : State) : s.startTimer.env = s.env := rfl
@[simp] theorem startTimer_epoch (s : State) : s.startTimer.epoch = s.epoch := rfl
@[simp] theorem startTimer_held (s : State) : s.startTimer.held = s.held := rfl

@[simp] theorem stopTimer_cfg (s : State) : s.stopTimer.cfg = s.cfg := rfl
@[simp] theorem stopTimer_a (s : State) : s.stopTimer.a = { s.a with timer := .stopped } := rfl
@[simp] theorem stopTimer_b (s : State) : s.stopTimer.b = s.b := rfl
@[simp] theorem stopTimer_lastStatus (s : State) : s.stopTimer.lastStatus = s.lastStatus := rfl
@[simp] theorem stopTimer_fault (s : State) : s.stopTimer.fault = s.fault := rfl
@[simp] theorem stopTimer_out (s : State) : s.stopTimer.out =
    s.out ++ if s.a.timer = .running then [.timerStop] else [] := rfl
@[simp] theorem stopTimer_env (s : State) : s.stopTimer.env = s.env := rfl
@[simp] theorem stopTimer_epoch (s : State) : s.stopTimer.epoch = s.epoch := rfl
@[simp] theorem stopTimer_held (s : State) : s.stopTimer.held = s.held := rfl

@[simp] theorem restartTimer_cfg (s : State) : s.restartTimer.cfg = s.cfg := rfl
@[simp] theorem restartTimer_a (s : State) : s.restartTimer.a = { s.a with timer := .running } := rfl
@[simp] theorem restartTimer_b (s : State) : s.restartTimer.b = s.b := rfl
@[simp] theorem restartTimer_lastStatus (s : State) : s.restartTimer.lastStatus = s.lastStatus := rfl
@[simp] theorem restartTimer_fault (s : State) : s.restartTimer.fault = s.fault := rfl
@[simp] theorem restartTimer_out (s : State) : s.restartTimer.out =
    (s.out ++ if s.a.timer = .running then [.timerStop] else []) ++ [.timerStart s.cfg.rtt] := rfl
@[simp] theorem restartTimer_env (s : State) : s.restartTimer.env = s.env := rfl
@[simp] theorem restartTimer_epoch (s : State) : s.restartTimer.epoch = s.epoch := rfl
@[simp] theorem restartTimer_held (s : State) : s.restartTimer.held = s.held := rfl

@[simp] theorem powerOn_cfg (s : State) : s.powerOn.cfg = s.cfg := rfl
@[simp] theorem powerOn_a (s : State) : s.powerOn.a = Sender.powerOn := rfl
@[simp] theorem powerOn_b (s : State) : s.powerOn.b = Receiver.powerOn := rfl
@[simp] theorem powerOn_lastStatus (s : State) : s.powerOn.lastStatus = .initDone := rfl
@[simp] theorem powerOn_fault (s : State) : s.powerOn.fault = 0 := rfl
@[simp] theorem powerOn_out (s : State) : s.powerOn.out = [] := rfl
@[simp] theorem powerOn_env (s : State) : s.powerOn.env = s.env := rfl
@[simp] theorem powerOn_epoch (s : State) : s.powerOn.epoch = s.epoch + 1 := rfl
@[simp] theorem powerOn_held (s : State) : s.powerOn.held = none := rfl

@[simp] theorem dropMessage_cfg (s : State) : s.dropMessage.cfg = s.cfg := rfl
@[simp] theorem dropMessage_a (s : State) : s.dropMessage.a =
    { s.a with cntWindowFull := s.a.cntWindowFull + 1#32 } := rfl
@[simp] theorem dropMessage_b (s : State) : s.dropMessage.b = s.b := rfl
@[simp] theorem dropMessage_lastStatus (s : State) : s.dropMessage.lastStatus = s.lastStatus := rfl
@[simp] theorem dropMessage_fault (s : State) : s.dropMessage.fault = s.fault := rfl
@[simp] theorem dropMessage_out (s : State) : s.dropMessage.out = s.out := rfl
@[simp] theorem dropMessage_env (s : State) : s.dropMessage.env = s.env := rfl
@[simp] theorem dropMessage_epoch (s : State) : s.dropMessage.epoch = s.epoch := rfl
@[simp] theorem dropMessage_held (s : State) : s.dropMessage.held = s.held := rfl

@[simp] theorem sendNew_cfg (s : State) (m : Message) : (s.sendNew m).cfg = s.cfg := rfl
@[simp] theorem sendNew_a (s : State) (m : Message) : (s.sendNew m).a =
    { s.a with
      buffer := slotWrite s.a.buffer s.a.nextseqnum (dataPacket s.cfg s.a.nextseqnum m)
      acked := bitClear s.a.acked s.a.nextseqnum } := rfl
@[simp] theorem sendNew_b (s : State) (m : Message) : (s.sendNew m).b = s.b := rfl
@[simp] theorem sendNew_lastStatus (s : State) (m : Message) : (s.sendNew m).lastStatus = s.lastStatus := rfl
@[simp] theorem sendNew_fault (s : State) (m : Message) : (s.sendNew m).fault = s.fault := rfl
@[simp] theorem sendNew_out (s : State) (m : Message) : (s.sendNew m).out =
    s.out ++ [.aToChannel (dataPacket s.cfg s.a.nextseqnum m)] := rfl
@[simp] theorem sendNew_env (s : State) (m : Message) : (s.sendNew m).env = s.env := rfl
@[simp] theorem sendNew_epoch (s : State) (m : Message) : (s.sendNew m).epoch = s.epoch := rfl
@[simp] theorem sendNew_held (s : State) (m : Message) : (s.sendNew m).held = s.held := rfl

@[simp] theorem advanceNext_cfg (s : State) : s.advanceNext.cfg = s.cfg := rfl
@[simp] theorem advanceNext_a (s : State) : s.advanceNext.a =
    { s.a with nextseqnum := inc s.cfg s.a.nextseqnum } := rfl
@[simp] theorem advanceNext_b (s : State) : s.advanceNext.b = s.b := rfl
@[simp] theorem advanceNext_lastStatus (s : State) : s.advanceNext.lastStatus = s.lastStatus := rfl
@[simp] theorem advanceNext_fault (s : State) : s.advanceNext.fault = s.fault := rfl
@[simp] theorem advanceNext_out (s : State) : s.advanceNext.out = s.out := rfl
@[simp] theorem advanceNext_env (s : State) : s.advanceNext.env = s.env := rfl
@[simp] theorem advanceNext_epoch (s : State) : s.advanceNext.epoch = s.epoch := rfl
@[simp] theorem advanceNext_held (s : State) : s.advanceNext.held = s.held := rfl

@[simp] theorem markAcked_cfg (s : State) (i : Nat) : (s.markAcked i).cfg = s.cfg := rfl
@[simp] theorem markAcked_a (s : State) (i : Nat) : (s.markAcked i).a =
    { s.a with acked := bitSet s.a.acked i, cntNewAcks := s.a.cntNewAcks + 1#32 } := rfl
@[simp] theorem markAcked_b (s : State) (i : Nat) : (s.markAcked i).b = s.b := rfl
@[simp] theorem markAcked_lastStatus (s : State) (i : Nat) : (s.markAcked i).lastStatus = s.lastStatus := rfl
@[simp] theorem markAcked_fault (s : State) (i : Nat) : (s.markAcked i).fault = s.fault := rfl
@[simp] theorem markAcked_out (s : State) (i : Nat) : (s.markAcked i).out = s.out := rfl
@[simp] theorem markAcked_env (s : State) (i : Nat) : (s.markAcked i).env = s.env := rfl
@[simp] theorem markAcked_epoch (s : State) (i : Nat) : (s.markAcked i).epoch = s.epoch := rfl
@[simp] theorem markAcked_held (s : State) (i : Nat) : (s.markAcked i).held = s.held := rfl

@[simp] theorem slideBase_cfg (s : State) : s.slideBase.cfg = s.cfg := rfl
@[simp] theorem slideBase_a (s : State) : s.slideBase.a = slide s.cfg s.cfg.seqSpace s.a := rfl
@[simp] theorem slideBase_b (s : State) : s.slideBase.b = s.b := rfl
@[simp] theorem slideBase_lastStatus (s : State) : s.slideBase.lastStatus = s.lastStatus := rfl
@[simp] theorem slideBase_fault (s : State) : s.slideBase.fault = s.fault := rfl
@[simp] theorem slideBase_out (s : State) : s.slideBase.out = s.out := rfl
@[simp] theorem slideBase_env (s : State) : s.slideBase.env = s.env := rfl
@[simp] theorem slideBase_epoch (s : State) : s.slideBase.epoch = s.epoch := rfl
@[simp] theorem slideBase_held (s : State) : s.slideBase.held = s.held := rfl

@[simp] theorem retransmit_cfg (s : State) : s.retransmit.cfg = s.cfg := rfl
@[simp] theorem retransmit_a (s : State) : s.retransmit.a =
    { s.a with cntResent := s.a.cntResent + BitVec.ofNat 32 s.resendSlots.length } := rfl
@[simp] theorem retransmit_b (s : State) : s.retransmit.b = s.b := rfl
@[simp] theorem retransmit_lastStatus (s : State) : s.retransmit.lastStatus = s.lastStatus := rfl
@[simp] theorem retransmit_fault (s : State) : s.retransmit.fault = s.fault := rfl
@[simp] theorem retransmit_out (s : State) : s.retransmit.out =
    s.out ++ s.resendSlots.map fun i => .aToChannel (s.sentPacket i) := rfl
@[simp] theorem retransmit_env (s : State) : s.retransmit.env = s.env := rfl
@[simp] theorem retransmit_epoch (s : State) : s.retransmit.epoch = s.epoch := rfl
@[simp] theorem retransmit_held (s : State) : s.retransmit.held = s.held := rfl

@[simp] theorem storePacket_cfg (s : State) (p : Packet) : (s.storePacket p).cfg = s.cfg := rfl
@[simp] theorem storePacket_a (s : State) (p : Packet) : (s.storePacket p).a = s.a := rfl
@[simp] theorem storePacket_b (s : State) (p : Packet) : (s.storePacket p).b =
    { s.b with
      recvBuffer := slotWrite s.b.recvBuffer (seqIndex p.seqnum) p
      received := bitSet s.b.received (seqIndex p.seqnum) } := rfl
@[simp] theorem storePacket_lastStatus (s : State) (p : Packet) : (s.storePacket p).lastStatus = s.lastStatus := rfl
@[simp] theorem storePacket_fault (s : State) (p : Packet) : (s.storePacket p).fault = s.fault := rfl
@[simp] theorem storePacket_out (s : State) (p : Packet) : (s.storePacket p).out = s.out := rfl
@[simp] theorem storePacket_env (s : State) (p : Packet) : (s.storePacket p).env = s.env := rfl
@[simp] theorem storePacket_epoch (s : State) (p : Packet) : (s.storePacket p).epoch = s.epoch := rfl
@[simp] theorem storePacket_held (s : State) (p : Packet) : (s.storePacket p).held = s.held := rfl

@[simp] theorem deliverOne_cfg (s : State) : s.deliverOne.cfg = s.cfg := rfl
@[simp] theorem deliverOne_a (s : State) : s.deliverOne.a = s.a := rfl
@[simp] theorem deliverOne_b (s : State) : s.deliverOne.b =
    { s.b with
      received := bitClear s.b.received s.b.expectedseqnum
      expectedseqnum := inc s.cfg s.b.expectedseqnum
      cntDelivered := s.b.cntDelivered + 1#32 } := rfl
@[simp] theorem deliverOne_lastStatus (s : State) : s.deliverOne.lastStatus = s.lastStatus := rfl
@[simp] theorem deliverOne_fault (s : State) : s.deliverOne.fault = s.fault := rfl
@[simp] theorem deliverOne_out (s : State) : s.deliverOne.out =
    s.out ++ [.bToApp (s.heldPacket s.b.expectedseqnum).payload] := rfl
@[simp] theorem deliverOne_env (s : State) : s.deliverOne.env = s.env := rfl
@[simp] theorem deliverOne_epoch (s : State) : s.deliverOne.epoch = s.epoch := rfl
@[simp] theorem deliverOne_held (s : State) : s.deliverOne.held = s.held := rfl

/-! The handshake: the update of a command in progress. -/

@[simp] theorem writeHeld_cfg (s : State) : s.writeHeld.cfg = s.cfg := by unfold State.writeHeld; split <;> rfl
@[simp] theorem writeHeld_fault (s : State) : s.writeHeld.fault = s.fault := by unfold State.writeHeld; split <;> rfl
@[simp] theorem writeHeld_out (s : State) : s.writeHeld.out = s.out := by unfold State.writeHeld; split <;> rfl
@[simp] theorem writeHeld_env (s : State) : s.writeHeld.env = s.env := by unfold State.writeHeld; split <;> rfl
@[simp] theorem writeHeld_epoch (s : State) : s.writeHeld.epoch = s.epoch := by unfold State.writeHeld; split <;> rfl
@[simp] theorem writeHeld_held (s : State) : s.writeHeld.held = none := by unfold State.writeHeld; split <;> simp_all
theorem writeHeld_some {s : State} {u : Update} (h : s.held = some u) :
    s.writeHeld = { s with a := u.a, b := u.b, lastStatus := u.lastStatus, held := none } := by
  unfold State.writeHeld
  simp only [h]
theorem writeHeld_none {s : State} (h : s.held = none) : s.writeHeld = s := by
  unfold State.writeHeld
  simp only [h]

@[simp] theorem settle_cfg (s : State) : s.settle.cfg = s.cfg := writeHeld_cfg _
@[simp] theorem settle_fault (s : State) : s.settle.fault = s.fault := writeHeld_fault _
@[simp] theorem settle_out (s : State) : s.settle.out = [] := writeHeld_out _
@[simp] theorem settle_env (s : State) : s.settle.env = s.env := writeHeld_env _
@[simp] theorem settle_epoch (s : State) : s.settle.epoch = s.epoch := writeHeld_epoch _
@[simp] theorem settle_held (s : State) : s.settle.held = none := writeHeld_held _

/-- The last action leaves: the update is written. -/
theorem takeAction_last {s : State} (h : s.out.tail = []) : s.takeAction = s.settle := by
  simp [State.takeAction, State.settle, h]
/-- Another action is left: the update stays held. -/
theorem takeAction_more {s : State} (h : s.out.tail ≠ []) : s.takeAction = { s with out := s.out.tail } := by
  simp [State.takeAction, h]
@[simp] theorem takeAction_cfg (s : State) : s.takeAction.cfg = s.cfg := by unfold State.takeAction; split <;> simp
@[simp] theorem takeAction_fault (s : State) : s.takeAction.fault = s.fault := by unfold State.takeAction; split <;> simp
@[simp] theorem takeAction_out (s : State) : s.takeAction.out = s.out.tail := by unfold State.takeAction; split <;> simp_all
@[simp] theorem takeAction_env (s : State) : s.takeAction.env = s.env := by unfold State.takeAction; split <;> simp
@[simp] theorem takeAction_epoch (s : State) : s.takeAction.epoch = s.epoch := by unfold State.takeAction; split <;> simp

/-- Without an action the whole effect is there at once. -/
theorem accept_done {s t : State} (h : t.out = []) : s.accept t = { t with held := none } := by
  simp [State.accept, h]
/-- With actions the registers stay, and the update is held. -/
theorem accept_busy {s t : State} (h : t.out ≠ []) :
    s.accept t = { s with out := t.out, held := some ⟨t.a, t.b, t.lastStatus⟩ } := by
  simp [State.accept, h]
@[simp] theorem accept_out (s t : State) : (s.accept t).out = t.out := by unfold State.accept; split <;> rfl

/-! The updates that branch. -/

@[simp] theorem startTimerIfStopped_cfg (s : State) : s.startTimerIfStopped.cfg = s.cfg := by
  unfold State.startTimerIfStopped
  split <;> rfl
@[simp] theorem startTimerIfStopped_a (s : State) : s.startTimerIfStopped.a = { s.a with timer := .running } := by
  unfold State.startTimerIfStopped
  split
  · rfl
  · cases h : s with
    | mk c a b l f o u e n => cases a with | mk _ _ _ _ t _ _ _ => cases t <;> simp_all
@[simp] theorem startTimerIfStopped_b (s : State) : s.startTimerIfStopped.b = s.b := by
  unfold State.startTimerIfStopped
  split <;> rfl
@[simp] theorem startTimerIfStopped_lastStatus (s : State) : s.startTimerIfStopped.lastStatus = s.lastStatus := by
  unfold State.startTimerIfStopped
  split <;> rfl
@[simp] theorem startTimerIfStopped_fault (s : State) : s.startTimerIfStopped.fault = s.fault := by
  unfold State.startTimerIfStopped
  split <;> rfl
@[simp] theorem startTimerIfStopped_out (s : State) : s.startTimerIfStopped.out =
    s.out ++ if s.a.timer = .stopped then [.timerStart s.cfg.rtt] else [] := by
  unfold State.startTimerIfStopped
  split <;> simp_all
@[simp] theorem startTimerIfStopped_env (s : State) : s.startTimerIfStopped.env = s.env := by
  unfold State.startTimerIfStopped
  split <;> rfl
@[simp] theorem startTimerIfStopped_epoch (s : State) : s.startTimerIfStopped.epoch = s.epoch := by
  unfold State.startTimerIfStopped
  split <;> rfl
@[simp] theorem startTimerIfStopped_held (s : State) : s.startTimerIfStopped.held = s.held := by
  unfold State.startTimerIfStopped
  split <;> rfl

@[simp] theorem timerAfterSlide_cfg (s : State) : s.timerAfterSlide.cfg = s.cfg := by
  unfold State.timerAfterSlide
  split <;> rfl
@[simp] theorem timerAfterSlide_a (s : State) : s.timerAfterSlide.a =
    { s.a with timer := if s.a.base = s.a.nextseqnum then .stopped else .running } := by
  unfold State.timerAfterSlide
  split <;> simp_all
@[simp] theorem timerAfterSlide_b (s : State) : s.timerAfterSlide.b = s.b := by
  unfold State.timerAfterSlide
  split <;> rfl
@[simp] theorem timerAfterSlide_lastStatus (s : State) : s.timerAfterSlide.lastStatus = s.lastStatus := by
  unfold State.timerAfterSlide
  split <;> rfl
@[simp] theorem timerAfterSlide_fault (s : State) : s.timerAfterSlide.fault = s.fault := by
  unfold State.timerAfterSlide
  split <;> rfl
@[simp] theorem timerAfterSlide_out (s : State) : s.timerAfterSlide.out =
    (s.out ++ if s.a.timer = .running then [.timerStop] else []) ++
      if s.a.base = s.a.nextseqnum then [] else [.timerStart s.cfg.rtt] := by
  unfold State.timerAfterSlide
  split <;> simp_all
@[simp] theorem timerAfterSlide_env (s : State) : s.timerAfterSlide.env = s.env := by
  unfold State.timerAfterSlide
  split <;> rfl
@[simp] theorem timerAfterSlide_epoch (s : State) : s.timerAfterSlide.epoch = s.epoch := by
  unfold State.timerAfterSlide
  split <;> rfl
@[simp] theorem timerAfterSlide_held (s : State) : s.timerAfterSlide.held = s.held := by
  unfold State.timerAfterSlide
  split <;> rfl

@[simp] theorem acceptPacket_cfg (s : State) (p : Packet) : (s.acceptPacket p).cfg = s.cfg := by
  unfold State.acceptPacket
  split <;> rfl
@[simp] theorem acceptPacket_a (s : State) (p : Packet) : (s.acceptPacket p).a = s.a := by
  unfold State.acceptPacket
  split <;> rfl
@[simp] theorem acceptPacket_b (s : State) (p : Packet) : (s.acceptPacket p).b =
    if s.arrivalStatus p = .pktAccepted then (s.storePacket p).b else s.b := by
  unfold State.acceptPacket
  split <;> rfl
@[simp] theorem acceptPacket_lastStatus (s : State) (p : Packet) : (s.acceptPacket p).lastStatus = s.lastStatus := by
  unfold State.acceptPacket
  split <;> rfl
@[simp] theorem acceptPacket_fault (s : State) (p : Packet) : (s.acceptPacket p).fault = s.fault := by
  unfold State.acceptPacket
  split <;> rfl
@[simp] theorem acceptPacket_out (s : State) (p : Packet) : (s.acceptPacket p).out = s.out := by
  unfold State.acceptPacket
  split <;> rfl
@[simp] theorem acceptPacket_env (s : State) (p : Packet) : (s.acceptPacket p).env = s.env := by
  unfold State.acceptPacket
  split <;> rfl
@[simp] theorem acceptPacket_epoch (s : State) (p : Packet) : (s.acceptPacket p).epoch = s.epoch := by
  unfold State.acceptPacket
  split <;> rfl
@[simp] theorem acceptPacket_held (s : State) (p : Packet) : (s.acceptPacket p).held = s.held := by
  unfold State.acceptPacket
  split <;> rfl

end Sys2Proof.Machine
end

