-- ==== Sys2Proof/Laws/Store.lean ====
section
/-! SUPPORT. The bitmaps and the packet buffers: read after write, and every operation keeps the canonical form. -/

namespace Sys2Proof.Machine

open Sys2Proof

theorem mem_bitSet {l : List Nat} {i j : Nat} : j ∈ bitSet l i ↔ j = i ∨ j ∈ l := by
  induction l with
  | nil => simp [bitSet]
  | cons k rest ih =>
    unfold bitSet
    split
    · simp
    · split
      · subst_vars; simp
      · simp only [List.mem_cons, ih]; tauto

theorem mem_bitClear {l : List Nat} {i j : Nat} : j ∈ bitClear l i ↔ j ∈ l ∧ j ≠ i := by simp [bitClear]

theorem bitGet_bitSet (l : List Nat) (i j : Nat) : bitGet (bitSet l i) j = (decide (j = i) || bitGet l j) := by
  simp [bitGet, mem_bitSet]

theorem bitGet_bitClear (l : List Nat) (i j : Nat) : bitGet (bitClear l i) j = (bitGet l j && decide (j ≠ i)) := by
  simp [bitGet, mem_bitClear]

theorem bitsWf_bitSet {l : List Nat} (h : bitsWf l) (i : Nat) : bitsWf (bitSet l i) := by
  induction l with
  | nil => simp [bitsWf, bitSet]
  | cons k rest ih =>
    have hk := List.pairwise_cons.mp h
    unfold bitSet
    split
    · refine List.pairwise_cons.mpr ⟨fun j hj => ?_, h⟩
      rcases List.mem_cons.mp hj with rfl | hj
      · assumption
      · exact lt_trans ‹_› (hk.1 j hj)
    · split
      · exact h
      · refine List.pairwise_cons.mpr ⟨fun j hj => ?_, ih hk.2⟩
        rcases mem_bitSet.mp hj with rfl | hj
        · omega
        · exact hk.1 j hj

theorem bitsWf_filter {l : List Nat} (h : bitsWf l) (f : Nat → Bool) : bitsWf (l.filter f) := List.Pairwise.filter f h

theorem bitsWf_bitClear {l : List Nat} (h : bitsWf l) (i : Nat) : bitsWf (bitClear l i) := bitsWf_filter h _

/-- Reading a slot after a write: the packet written, whole, and every other slot as before (R11, R54). -/
theorem slotLookup_slotWrite (l : List (Nat × Packet)) (i j : Nat) (p : Packet) :
    slotLookup (slotWrite l i p) j = if j = i then some p else slotLookup l j := by
  induction l with
  | nil => simp [slotWrite, slotLookup, eq_comm]
  | cons e rest ih =>
    unfold slotWrite
    split
    · rw [slotLookup]; simp only [eq_comm]
    · split
      · by_cases hj : i = j <;> simp_all [slotLookup, eq_comm]
      · rw [slotLookup, ih, slotLookup]
        by_cases hj : j = i
        · subst hj; simp; omega
        · simp [hj]

theorem slotRead_slotWrite (o : Entity) (n : Nat) (l : List (Nat × Packet)) (i j : Nat) (p : Packet) :
    slotRead o n (slotWrite l i p) j = if j = i then p else slotRead o n l j := by
  unfold slotRead
  rw [slotLookup_slotWrite]
  by_cases h : j = i <;> simp [h]

theorem mem_slotWrite {l : List (Nat × Packet)} {i : Nat} {p : Packet} {e : Nat × Packet} :
    e ∈ slotWrite l i p → e = (i, p) ∨ e ∈ l := by
  induction l with
  | nil => simp [slotWrite]
  | cons d rest ih =>
    unfold slotWrite
    split
    · simp
    · split
      · simp only [List.mem_cons]; tauto
      · simp only [List.mem_cons]; tauto

theorem slotsWf_slotWrite {l : List (Nat × Packet)} (h : slotsWf l) (i : Nat) (p : Packet) :
    slotsWf (slotWrite l i p) := by
  induction l with
  | nil => simp [slotsWf, slotWrite]
  | cons e rest ih =>
    simp only [slotsWf, List.map_cons, List.pairwise_cons] at h
    obtain ⟨hlt, hrest⟩ := h
    unfold slotWrite
    split
    · simp only [slotsWf, List.map_cons, List.pairwise_cons, List.mem_cons]
      refine ⟨?_, hlt, hrest⟩
      rintro j (rfl | hj)
      · assumption
      · exact lt_trans ‹_› (hlt j hj)
    · split
      · simp only [slotsWf, List.map_cons, List.pairwise_cons]
        subst_vars
        exact ⟨hlt, hrest⟩
      · simp only [slotsWf, List.map_cons, List.pairwise_cons]
        refine ⟨fun j hj => ?_, ih hrest⟩
        obtain ⟨d, hd, rfl⟩ := List.mem_map.mp hj
        rcases mem_slotWrite hd with rfl | hd
        · show e.1 < i
          omega
        · exact hlt _ (List.mem_map_of_mem hd)

/-- The bitmaps and the buffers after power-on are in canonical form. -/
theorem canonical_resetWith (c : Config) :
    bitsWf (State.resetWith c).a.acked ∧ bitsWf (State.resetWith c).b.received ∧
    slotsWf (State.resetWith c).a.buffer ∧ slotsWf (State.resetWith c).b.recvBuffer :=
  ⟨.nil, .nil, .nil, .nil⟩

end Sys2Proof.Machine
end

