-- ==== Sys2Proof/Laws/Sender.lean ====
section
/-! SUPPORT. What the sender's shared operations can do, said once: the slide and the window test. -/

namespace Sys2Proof.Machine

open Sys2Proof

/-- A bitmap with the `k` slots from `x` on cleared. -/
def clearRun (c : Config) (x k : Nat) (l : List Nat) : List Nat :=
  l.filter fun i => decide (∀ j < k, ahead c x j ≠ i)

theorem bitGet_clearRun (c : Config) (x k : Nat) (l : List Nat) (i : Nat) :
    bitGet (clearRun c x k l) i = (bitGet l i && decide (∀ j < k, ahead c x j ≠ i)) := by
  simp [bitGet, clearRun]

theorem clearRun_zero (c : Config) (x : Nat) (l : List Nat) : clearRun c x 0 l = l := by simp [clearRun]

theorem mem_clearRun {c : Config} {x k i : Nat} {l : List Nat} (h : i ∈ clearRun c x k l) : i ∈ l :=
  List.mem_of_mem_filter h

/-- Clearing the first slot and then the run behind it clears the longer run. -/
theorem clearRun_bitClear {c : Config} {x : Nat} (hx : x < c.seqSpace) (k : Nat) (l : List Nat) :
    clearRun c (inc c x) k (bitClear l x) = clearRun c x (k + 1) l := by
  simp only [clearRun, bitClear, List.filter_filter]
  refine List.filter_congr fun i _ => ?_
  simp only [ahead_inc, ← Bool.decide_and, decide_eq_decide]
  constructor
  · rintro ⟨h, h0⟩ j hj
    cases j with
    | zero => rw [ahead_zero hx]; exact fun h => h0 h.symm
    | succ j => exact h j (by omega)
  · intro h
    refine ⟨fun j hj => h (j + 1) (by omega), fun h0 => ?_⟩
    exact h 0 (by omega) (by rw [ahead_zero hx, h0])

/-- The slide (R115): it passes a run of `k` acked slots, clears them, and stops at the first clear slot or after `n`.
-/
theorem slide_spec (c : Config) (n : Nat) (a : Sender) (hb : a.base < c.seqSpace) (hn : n ≤ c.seqSpace) :
    ∃ k ≤ n, slide c n a = { a with base := ahead c a.base k, acked := clearRun c a.base k a.acked } ∧
      (∀ j < k, bitGet a.acked (ahead c a.base j) = true) ∧
      (k = n ∨ bitGet a.acked (ahead c a.base k) = false) := by
  induction n generalizing a with
  | zero => exact ⟨0, le_rfl, by simp [slide, clearRun_zero, hb], by simp, Or.inl rfl⟩
  | succ n ih =>
    unfold slide
    split
    · rename_i hbit
      obtain ⟨k, hk, heq, hrun, hstop⟩ :=
        ih { a with acked := bitClear a.acked a.base, base := inc c a.base } (inc_lt hb) (by omega)
      simp only [ahead_inc, clearRun_bitClear hb, bitGet_bitClear, Bool.and_eq_true] at heq hrun hstop
      refine ⟨k + 1, by omega, heq, ?_, ?_⟩
      · intro j hj
        cases j with
        | zero => rwa [ahead_zero hb]
        | succ j => exact (hrun j (by omega)).1
      · rcases hstop with rfl | hstop
        · exact Or.inl rfl
        · by_cases hkn : k = n
          · exact Or.inl (by rw [hkn])
          · refine Or.inr ?_
            have hne : ahead c a.base (k + 1) ≠ a.base := by
              intro h
              have := ahead_inj hb (i := k + 1) (j := 0) (by omega) (by omega) (by rw [h, ahead_zero hb])
              omega
            simpa [hne] using hstop
    · rename_i hbit
      exact ⟨0, by omega, by simp [clearRun_zero, hb], by simp, Or.inr (by simpa [hb] using hbit)⟩

/-- What the slide leaves unchanged. -/
theorem slide_frame (c : Config) (n : Nat) (a : Sender) :
    (slide c n a).nextseqnum = a.nextseqnum ∧ (slide c n a).buffer = a.buffer ∧ (slide c n a).timer = a.timer ∧
    (slide c n a).cntWindowFull = a.cntWindowFull ∧ (slide c n a).cntNewAcks = a.cntNewAcks ∧
    (slide c n a).cntResent = a.cntResent := by
  induction n generalizing a with
  | zero => exact ⟨rfl, rfl, rfl, rfl, rfl, rfl⟩
  | succ n ih =>
    unfold slide
    split
    · exact ih _
    · exact ⟨rfl, rfl, rfl, rfl, rfl, rfl⟩

/-- The outstanding range (R13): the slots fewer than `outstanding()` steps ahead of base. -/
theorem inOutstanding_nat {s : State} {x : Nat} :
    s.inOutstanding x = true ↔ x < s.cfg.seqSpace ∧ seqDist s.cfg s.a.base x < s.outstanding := by
  simp [State.inOutstanding, inSeqRange_nat]

theorem inOutstanding_ahead {s : State} {i : Nat} (hb : s.a.base < s.cfg.seqSpace) (hi : i < s.cfg.seqSpace) :
    s.inOutstanding (ahead s.cfg s.a.base i) = true ↔ i < s.outstanding := by
  rw [inOutstanding_nat, seqDist_ahead hb hi]
  exact ⟨fun h => h.2, fun h => ⟨ahead_lt hb, h⟩⟩

theorem mem_resendSlots {s : State} {x : Nat} :
    x ∈ s.resendSlots ↔ ∃ i < s.cfg.windowSize, s.resends i = true ∧ ahead s.cfg s.a.base i = x := by
  simp [State.resendSlots, and_assoc]

end Sys2Proof.Machine
end

