-- ==== Sys2Proof/Laws/Receiver.lean ====
section
/-! SUPPORT. What the receiver's shared operations can do, said once: the drain and the window test. -/

namespace Sys2Proof.Machine

open Sys2Proof

/-- The deliveries of `k` slots from the expected one on, in sequence order (R147). -/
def deliveries (s : State) (k : Nat) : List Action :=
  (List.range k).map fun j => .bToApp (s.heldPacket (ahead s.cfg s.b.expectedseqnum j)).payload

/-- The drain (R147): it delivers a run of `k` received slots in order, clears them, and stops at the first clear slot
or after `n`. -/
theorem drain_spec (n : Nat) (s : State) (he : s.b.expectedseqnum < s.cfg.seqSpace) (hn : n ≤ s.cfg.seqSpace) :
    ∃ k ≤ n, drain n s = { s with
        b := { s.b with
          expectedseqnum := ahead s.cfg s.b.expectedseqnum k
          received := clearRun s.cfg s.b.expectedseqnum k s.b.received
          cntDelivered := s.b.cntDelivered + BitVec.ofNat 32 k }
        out := s.out ++ deliveries s k } ∧
      (∀ j < k, bitGet s.b.received (ahead s.cfg s.b.expectedseqnum j) = true) ∧
      (k = n ∨ bitGet s.b.received (ahead s.cfg s.b.expectedseqnum k) = false) := by
  induction n generalizing s with
  | zero => exact ⟨0, le_rfl, by simp [drain, clearRun_zero, deliveries, he], by simp, Or.inl rfl⟩
  | succ n ih =>
    unfold drain
    split
    · rename_i hbit
      obtain ⟨k, hk, heq, hrun, hstop⟩ := ih s.deliverOne (by simpa using inc_lt he) (by simpa using by omega)
      simp only [deliverOne_b, deliverOne_cfg, deliverOne_out, ahead_inc, clearRun_bitClear he, bitGet_bitClear,
        Bool.and_eq_true] at heq hrun hstop
      refine ⟨k + 1, by omega, ?_, ?_, ?_⟩
      · rw [heq]
        have hcnt : s.b.cntDelivered + 1#32 + BitVec.ofNat 32 k = s.b.cntDelivered + BitVec.ofNat 32 (k + 1) := by
          rw [BitVec.add_assoc, BitVec.add_comm 1#32, BitVec.ofNat_add]
        have hout : s.out ++ [Action.bToApp (s.heldPacket s.b.expectedseqnum).payload] ++ deliveries s.deliverOne k =
            s.out ++ deliveries s (k + 1) := by
          have hheld : ∀ i, s.deliverOne.heldPacket i = s.heldPacket i := fun i => rfl
          simp [deliveries, List.range_succ_eq_map, ahead_inc, he, Function.comp_def, hheld]
        rw [hcnt, hout]
        rfl
      · intro j hj
        cases j with
        | zero => rwa [ahead_zero he]
        | succ j => exact (hrun j (by omega)).1
      · rcases hstop with rfl | hstop
        · exact Or.inl rfl
        · by_cases hkn : k = n
          · exact Or.inl (by rw [hkn])
          · refine Or.inr ?_
            have hne : ahead s.cfg s.b.expectedseqnum (k + 1) ≠ s.b.expectedseqnum := by
              intro h
              have := ahead_inj he (i := k + 1) (j := 0) (by omega) (by omega) (by rw [h, ahead_zero he])
              omega
            simpa [hne] using hstop
    · rename_i hbit
      exact ⟨0, by omega, by simp [clearRun_zero, deliveries, he], by simp, Or.inr (by simpa [he] using hbit)⟩

/-- What the drain leaves unchanged, and that it emits deliveries only. -/
theorem drain_frame (n : Nat) (s : State) :
    (drain n s).cfg = s.cfg ∧ (drain n s).a = s.a ∧ (drain n s).b.recvBuffer = s.b.recvBuffer ∧
    (drain n s).lastStatus = s.lastStatus ∧ (drain n s).fault = s.fault ∧ (drain n s).env = s.env ∧
    (drain n s).held = s.held ∧ (drain n s).epoch = s.epoch ∧ ∃ ms : List Message, (drain n s).out = s.out ++ ms.map .bToApp := by
  induction n generalizing s with
  | zero => exact ⟨rfl, rfl, rfl, rfl, rfl, rfl, rfl, rfl, [], by simp [drain]⟩
  | succ n ih =>
    unfold drain
    split
    · obtain ⟨hc, ha, hb, hl, hf, he, hu, hn, ms, ho⟩ := ih s.deliverOne
      exact ⟨hc, ha, hb, hl, hf, he, hu, hn, (s.heldPacket s.b.expectedseqnum).payload :: ms, by rw [ho]; simp⟩
    · exact ⟨rfl, rfl, rfl, rfl, rfl, rfl, rfl, rfl, [], by simp⟩

/-- The receive window (R13, R145): the slots fewer than `W` steps ahead of the expected one. -/
theorem inRecvWindow_nat {s : State} {x : Nat} :
    s.inRecvWindow x = true ↔ x < s.cfg.seqSpace ∧ seqDist s.cfg s.b.expectedseqnum x < s.cfg.windowSize := by
  simp [State.inRecvWindow, inSeqRange_nat]

theorem inRecvWindow_ahead {s : State} {i : Nat} (he : s.b.expectedseqnum < s.cfg.seqSpace) (hi : i < s.cfg.seqSpace) :
    s.inRecvWindow (ahead s.cfg s.b.expectedseqnum i) = true ↔ i < s.cfg.windowSize := by
  rw [inRecvWindow_nat, seqDist_ahead he hi]
  exact ⟨fun h => h.2, fun h => ⟨ahead_lt he, h⟩⟩

/-- The acceptance step stores only an in-window packet not yet received (R145, R146). -/
theorem arrivalStatus_accepted {s : State} {p : Packet} :
    s.arrivalStatus p = .pktAccepted ↔
      s.inRecvWindow (sint32 p.seqnum) = true ∧ bitGet s.b.received (seqIndex p.seqnum) = false := by
  unfold State.arrivalStatus
  split
  · split <;> simp_all
  · simp_all

end Sys2Proof.Machine
end

