-- ==== Sys2Proof/Laws/Exec.lean ====
section
/-! SUPPORT. What each command and each step can do, said once: inversion lemmas that later proofs cite instead of
unfolding `exec` and `step`. -/

namespace Sys2Proof.Machine

open Sys2Proof

variable {s t : State}

theorem next_inj : (Host.Outcome.next s : Host.Outcome State Fault Refusal) = .next t ↔ s = t :=
  ⟨fun h => Host.Outcome.next.inj h, fun h => by rw [h]⟩

theorem exec_aInit_iff :
    exec .aInit s = .next t ↔ t = ({ s.stopTimer with a := s.stopTimer.a.clear }.setStatus .initDone) := by
  simp only [exec, execAInit, next_inj]
  exact eq_comm

theorem exec_bInit_iff : exec .bInit s = .next t ↔ t = ({ s with b := s.b.clear }.setStatus .initDone) := by
  simp only [exec, execBInit, next_inj]
  exact eq_comm

/-- R105: dropped, or sent. -/
theorem exec_aSubmit_iff {m : Message} : exec (.aSubmit m) s = .next t ↔
    (s.cfg.windowSize ≤ s.outstanding ∧ t = s.dropMessage.setStatus .droppedWindowFull) ∨
    (s.outstanding < s.cfg.windowSize ∧ t = (s.sendNew m).startTimerIfStopped.advanceNext.setStatus .sent) := by
  by_cases h : s.cfg.windowSize ≤ s.outstanding
  · simp [exec, execASubmit, State.windowFull, h, eq_comm]
  · simp [exec, execASubmit, State.windowFull, h, eq_comm, not_le.mp h]

/-- R112, R118: corrupted, out of range, duplicate, or new. -/
theorem exec_aAckIn_iff {p : Packet} : exec (.aAckIn p) s = .next t ↔
    (isCorrupted p = true ∧ t = s.setStatus .ackCorrupt) ∨
    (isCorrupted p = false ∧ s.ackInRange (sint32 p.acknum) = false ∧ t = s.setStatus .ackOutOfWindow) ∨
    (isCorrupted p = false ∧ s.ackInRange (sint32 p.acknum) = true ∧ s.acked (seqIndex p.acknum) = true ∧
      t = s.setStatus .ackDuplicate) ∨
    (isCorrupted p = false ∧ s.ackInRange (sint32 p.acknum) = true ∧ s.acked (seqIndex p.acknum) = false ∧
      t = (s.markAcked (seqIndex p.acknum)).slideBase.timerAfterSlide.setStatus .ackNew) := by
  simp only [exec, execAAckIn, State.acked]
  cases isCorrupted p <;> cases s.ackInRange (sint32 p.acknum) <;> cases bitGet s.a.acked (seqIndex p.acknum) <;>
    simp [eq_comm]

/-- R121, R124: the fault, or the retransmission. -/
theorem exec_aTimeout_iff : exec .aTimeout s = .next t ↔
    (s.a.timer = .stopped ∧ t = s.raiseFault .spuriousTimeout) ∨
    (s.a.timer = .running ∧ t = s.retransmit.startTimer.setStatus .retransmitted) := by
  simp only [exec, execATimeout]
  cases h : s.a.timer <;> simp [eq_comm]

/-- R144: corrupted, or acknowledged, accepted where it may be, and drained. -/
theorem exec_bPktIn_iff {p : Packet} : exec (.bPktIn p) s = .next t ↔
    (isCorrupted p = true ∧ t = s.setStatus .pktCorrupt) ∨
    (isCorrupted p = false ∧
      t = (((s.emit (.bToChannel (ackPacket s.cfg p))).acceptPacket p).drainAll).setStatus (s.arrivalStatus p)) := by
  simp only [exec, execBPktIn]
  cases isCorrupted p <;> simp [eq_comm]

/-- No command stops (R160). -/
theorem exec_next (i : Instr) (s : State) : ∃ t, exec i s = .next t := by
  cases i with
  | aInit => exact ⟨_, rfl⟩
  | aSubmit m => simp only [exec, execASubmit]; split <;> exact ⟨_, rfl⟩
  | aAckIn p =>
    simp only [exec, execAAckIn]
    split
    · exact ⟨_, rfl⟩
    · split
      · exact ⟨_, rfl⟩
      · split <;> exact ⟨_, rfl⟩
  | aTimeout => simp only [exec, execATimeout]; split <;> exact ⟨_, rfl⟩
  | bInit => exact ⟨_, rfl⟩
  | bPktIn p => simp only [exec, execBPktIn]; split <;> exact ⟨_, rfl⟩

/-- What no command touches: the configuration, the environment's drives, an update held, the epoch. -/
theorem exec_carries {i : Instr} (h : exec i s = .next t) :
    t.cfg = s.cfg ∧ t.env = s.env ∧ t.held = s.held ∧ t.epoch = s.epoch := by
  cases i with
  | aInit => rw [exec_aInit_iff.mp h]; exact ⟨rfl, rfl, rfl, rfl⟩
  | aSubmit m => rcases exec_aSubmit_iff.mp h with ⟨_, rfl⟩ | ⟨_, rfl⟩ <;> simp
  | aAckIn p =>
    rcases exec_aAckIn_iff.mp h with ⟨_, rfl⟩ | ⟨_, _, rfl⟩ | ⟨_, _, _, rfl⟩ | ⟨_, _, _, rfl⟩ <;> simp
  | aTimeout => rcases exec_aTimeout_iff.mp h with ⟨_, rfl⟩ | ⟨_, rfl⟩ <;> simp
  | bInit => rw [exec_bInit_iff.mp h]; exact ⟨rfl, rfl, rfl, rfl⟩
  | bPktIn p =>
    rcases exec_bPktIn_iff.mp h with ⟨_, rfl⟩ | ⟨_, rfl⟩
    · simp
    · simp [State.drainAll, drain_frame]

/-- R12: a command that emits an action faults in no way. -/
theorem exec_fault_or_silent {i : Instr} (h : exec i s = .next t) : t.fault = s.fault ∨ t.out = s.out := by
  cases i with
  | aInit => rw [exec_aInit_iff.mp h]; exact Or.inl rfl
  | aSubmit m => rcases exec_aSubmit_iff.mp h with ⟨_, rfl⟩ | ⟨_, rfl⟩ <;> simp
  | aAckIn p =>
    rcases exec_aAckIn_iff.mp h with ⟨_, rfl⟩ | ⟨_, _, rfl⟩ | ⟨_, _, _, rfl⟩ | ⟨_, _, _, rfl⟩ <;> simp
  | aTimeout =>
    rcases exec_aTimeout_iff.mp h with ⟨_, rfl⟩ | ⟨_, rfl⟩
    · exact Or.inr rfl
    · exact Or.inl rfl
  | bInit => rw [exec_bInit_iff.mp h]; exact Or.inl rfl
  | bPktIn p =>
    rcases exec_bPktIn_iff.mp h with ⟨_, rfl⟩ | ⟨_, rfl⟩
    · simp
    · simp [State.drainAll, drain_frame]

/-- A command accepted by a ready block and settled has its whole effect, as one transaction (R15, R200). -/
theorem settle_accept {i : Instr} (ho : s.out = []) (h : exec i s = .next t) :
    (s.accept t).settle = { t with out := [], held := none } := by
  by_cases hout : t.out = []
  · rw [accept_done hout, State.settle, writeHeld_none rfl]
  · obtain ⟨hc, he, _, hn⟩ := exec_carries h
    have hf : t.fault = s.fault := (exec_fault_or_silent h).resolve_right (fun hh => hout (hh.trans ho))
    rw [accept_busy hout, State.settle, writeHeld_some rfl]
    apply State.ext <;> simp [hc, he, hn, hf]

/-- What a step on a sample can do (R70, R190, R200, R206): wait, reset, hold or hand over an action, accept a command,
or fault on a reserved code. -/
theorem step_cases (h : step s = .next t) : s.cfg.Legal ∧
    ((s.env = [] ∧ s.out = [] ∧ t = s) ∨
    ∃ e rest, s.env = e :: rest ∧
      (t = { s with env := rest } ∨ (e.rst = true ∧ t = { s with env := rest }.powerOn) ∨
        (s.out ≠ [] ∧ t = { s with env := rest }.takeAction) ∨
        (s.out = [] ∧ ∃ i u, exec i { s with env := rest } = .next u ∧ t = { s with env := rest }.accept u) ∨
        (s.out = [] ∧ t = { ({ s with env := rest } : State).raiseFault .reservedOp with held := none }))) := by
  unfold step clockPorts at h
  split at h
  · rename_i hl
    refine ⟨hl, ?_⟩
    split at h
    · split at h
      · exact Or.inl ⟨‹_›, by simpa [State.cmdReady] using ‹s.cmdReady = true›, (next_inj.mp h).symm⟩
      · cases h
    · rename_i e rest he
      refine Or.inr ⟨e, rest, he, ?_⟩
      unfold applySample at h
      split at h
      · exact Or.inr (Or.inl ⟨‹_›, (next_inj.mp h).symm⟩)
      · split at h
        · rename_i hb
          split at h
          · refine Or.inr (Or.inr (Or.inl ⟨fun ho => ?_, (next_inj.mp h).symm⟩))
            simp [State.cmdReady, ho] at hb
          · exact Or.inl (next_inj.mp h).symm
        · rename_i hb
          have ho : s.out = [] := by simpa [State.cmdReady] using hb
          split at h
          · unfold acceptCommand at h
            split at h
            · rename_i u hu
              unfold runCommand at hu
              split at hu
              · exact Or.inr (Or.inr (Or.inr (Or.inl ⟨ho, _, u, hu, (next_inj.mp h).symm⟩)))
              · refine Or.inr (Or.inr (Or.inr (Or.inr ⟨ho, ?_⟩)))
                rw [← next_inj.mp h, ← next_inj.mp hu]
                exact accept_done ho
            · cases h
            · cases h
          · exact Or.inl (next_inj.mp h).symm
  · cases h

end Sys2Proof.Machine
end

