-- ==== Sys2Proof/Laws/PerInstr.lean ====
section
/-! SUPPORT. The statements made of every command as syntax, one lemma per constructor. -/

namespace Sys2Proof.Laws.OpcodeFields

/-- The code of a command is its entity bit and its event field, in this order (30_encoding R71). -/
def Statement (i : Instr) : Prop := i.opcode = i.entity.bit ++ i.event.field

theorem aInit : Statement .aInit := by
  simp only [Statement, Instr.opcode, Instr.entity, Instr.event]; decide
theorem aSubmit (m : Message) : Statement (.aSubmit m) := by
  simp only [Statement, Instr.opcode, Instr.entity, Instr.event]; decide
theorem aAckIn (p : Packet) : Statement (.aAckIn p) := by
  simp only [Statement, Instr.opcode, Instr.entity, Instr.event]; decide
theorem aTimeout : Statement .aTimeout := by
  simp only [Statement, Instr.opcode, Instr.entity, Instr.event]; decide
theorem bInit : Statement .bInit := by
  simp only [Statement, Instr.opcode, Instr.entity, Instr.event]; decide
theorem bPktIn (p : Packet) : Statement (.bPktIn p) := by
  simp only [Statement, Instr.opcode, Instr.entity, Instr.event]; decide

end Sys2Proof.Laws.OpcodeFields
end

