-- ==== Sys2Proof/Tests/Slice0.lean ====
section
/-! SUPPORT. Small tests of the model, their expected results from spec/, and one witness for every statement that has
hypotheses. -/

namespace Sys2Proof.Tests

open Sys2Proof Sys2Proof.Machine

/-! ## The bench: the default block with a known RTT -/

def benchCfg : Config := { Config.default with rtt := 16#32 }

def m0 : Message := 0x6161616161616161616161616161616161616161#160
def m1 : Message := 0x6262626262626262626262626262626262626262#160
def m11 : Message := 0x6C6C6C6C6C6C6C6C6C6C6C6C6C6C6C6C6C6C6C6C#160

/-- `data(s, m)` and `ack(s)` with their checksums from 95_test_vectors §0.1, `m` being 20 times the byte `b`. -/
def dat (s sum : Word) (m : Message) : Packet := ⟨s, 0xFFFFFFFF, sum, m⟩
def ackOf (s sum : Word) : Packet := ⟨s, s, sum, 0x3030303030303030303030303030303030303030⟩

/-- A: base 10, nextseqnum 1, slots 10, 11, 0 outstanding, 0 acked, RUNNING (vector AT-5). B: expectedseqnum 11, slots
0 and 1 received (vector BP-9). -/
def bench : State where
  cfg := benchCfg
  a := { Sender.powerOn with
    base := 10, nextseqnum := 1, acked := [0], timer := .running
    buffer := [(0, dat 0 0x793 m0), (10, dat 10 0x79D m0), (11, dat 11 0x79E m0)] }
  b := { Receiver.powerOn with
    expectedseqnum := 11, received := [0, 1], recvBuffer := [(0, dat 0 0x793 m0), (1, dat 1 0x7A8 m1)] }
  lastStatus := .sent
  fault := 0
  out := []
  held := none
  env := []
  epoch := 0

/-- Samples: the environment takes an action; `rst` is asserted; nothing is driven. -/
def taken : PortSample := ⟨false, true, ⟨0, 0, 0⟩, true⟩
def asserted : PortSample := ⟨true, false, ⟨0, 0, 0⟩, false⟩
def idle : PortSample := ⟨false, false, ⟨0, 0, 0⟩, true⟩

/-- What a step or a command answers, if it answers a next state. -/
def got : Host.Outcome State Fault Refusal → Option State
  | .next t => some t
  | .fault _ => none
  | .refused _ => none

def startedCfg : State := State.resetWith benchCfg

/-- `A_SUBMIT` of `m0`, `n` times from power-on, the actions taken. -/
def submitted (n : Nat) : State :=
  { startedCfg with a := { Sender.powerOn with nextseqnum := n, timer := .running } }

/-! ## WellFormed: each check refuses an ill-formed configuration -/

theorem test_windowPositive : { Config.default with windowSize := 0, seqSpace := 0 }.legal = false := by decide
theorem test_windowBounded :
    { Config.default with windowSize := 2 ^ 28 + 1, seqSpace := 2 ^ 29 + 2 }.legal = false := by decide
theorem test_spaceDoubled : { Config.default with seqSpace := 11 }.legal = false := by decide
theorem test_legal : Config.default.legal = true ∧
    { Config.default with windowSize := 1, seqSpace := 2 }.legal = true ∧
    { Config.default with windowSize := 2 ^ 28, seqSpace := 2 ^ 29 }.legal = true := by decide
/-- U-11: the step refuses. -/
theorem test_illegal_refused :
    got (step { State.reset with cfg := { Config.default with seqSpace := 11 } }) = none := by decide

/-! ## Decode: words written out bit by bit from 30_encoding R71, R75, R76 -/

theorem test_decode_aInit : decode ⟨0b0000, m0, 5⟩ = .command .aInit := by decide
theorem test_decode_aSubmit : decode ⟨0b0001, m0, 5⟩ = .command (.aSubmit m0) := by decide
theorem test_decode_aAckIn :
    decode ⟨0b0010, m0, 0x3030303030303030303030303030303030303030_000003C2_00000001_00000001⟩ =
      .command (.aAckIn (ackOf 1 0x3C2)) := by decide
theorem test_decode_aTimeout : decode ⟨0b0011, m0, 5⟩ = .command .aTimeout := by decide
theorem test_decode_bInit : decode ⟨0b1000, m0, 5⟩ = .command .bInit := by decide
theorem test_decode_bPktIn :
    decode ⟨0b1010, m0, 0x6262626262626262626262626262626262626262_000007A8_FFFFFFFF_00000001⟩ =
      .command (.bPktIn (dat 1 0x7A8 m1)) := by decide
/-- A receiver submit and a receiver timeout are reserved (R73). -/
theorem test_decode_reserved : decode ⟨0b1001, m0, 5⟩ = .reserved 0b1001 ∧ decode ⟨0b1011, m0, 5⟩ = .reserved 0b1011 := by
  decide
/-- Program bytes of 95_test_vectors §3: `00 00 00 00 ff ff ff ff 93 07 00 00` and twenty `61`. -/
theorem test_serialise : (dat 0 0x793 m0).serialise =
    [0, 0, 0, 0, 0xFF, 0xFF, 0xFF, 0xFF, 0x93, 0x07, 0, 0] ++ List.replicate 20 0x61 := by decide
/-- AS-8: the bytes 01, 02, …, 14 on the message bus. -/
theorem test_message_bytes :
    Message.ofBytes [1, 2, 3, 4, 5, 6, 7, 8, 9, 10, 11, 12, 13, 14, 15, 16, 17, 18, 19, 20] =
      0x14131211100F0E0D0C0B0A090807060504030201#160 := by decide
/-- The table words, and the first step after reset on one of them. -/
theorem test_decodeTableWord : decodeTableWord 8 0x03 = some .aTimeout ∧ decodeTableWord 8 0x08 = some .bInit ∧
    decodeTableWord 8 0x01 = some (.aSubmit 0) ∧ decodeTableWord 8 0x0F = none := by decide
theorem test_withFetchWord : step (State.reset.withFetchWord 8 0x03) = exec .aTimeout State.reset := rfl

/-! ## Codes: the tables of R161 and R80 -/

theorem test_status_codes :
    [Status.initDone, .sent, .droppedWindowFull, .ackCorrupt, .ackOutOfWindow, .ackDuplicate, .ackNew, .retransmitted,
      .pktCorrupt, .pktAccepted, .pktDuplicate, .pktOutsideWindow, .faultSpuriousTimeout, .faultReservedOp].map Status.code =
      [0x0, 0x1, 0x2, 0x3, 0x4, 0x5, 0x6, 0x7, 0x8, 0x9, 0xA, 0xB, 0xE, 0xF] := by decide
theorem test_action_tags :
    [Action.aToChannel (dat 0 0 0), .bToChannel (dat 0 0 0), .bToApp 0, .timerStart 0, .timerStop].map Action.tag =
      [0b000, 0b001, 0b010, 0b011, 0b100] := by decide

/-! ## The validator: vectors CK-5 to CK-13 -/

theorem test_checksum_wraps : checksum (dat 3 0 0x14131211100F0E0D0C0B0A090807060504030201) = 0xD4 ∧
    checksum ⟨0x7FFFFFFF, 1, 0, 0⟩ = 0x80000000 ∧
    checksum ⟨-1, -1, 0, 0xFFFFFFFFFFFFFFFFFFFFFFFFFFFFFFFFFFFFFFFF⟩ = 0x13EA := by decide
theorem test_corrupted : isCorrupted ⟨1, 0xFFFFFFFE, 0x793, m0⟩ = false ∧
    isCorrupted ⟨0, -1, 0x793, 0x6161616161616161616161616161616161616162⟩ = true ∧
    isCorrupted (corruptOperand (dat 0 0x793 m0)) = true := by decide
/-- R84 to R86: `data(0, M0) with acknum = 7` keeps its checksum. -/
theorem test_script_operand :
    (PktTerm.withField (.data 0 (.m 0)) .acknum 7).value benchCfg = ⟨0, 7, 0x793, m0⟩ ∧
    (PktTerm.ack (-1)).value benchCfg = ackOf (-1) 0x3BE := by decide
/-- CK-10: `data(0, M0)` with `payload[0]` = 0x62; and the last byte replaced. -/
theorem test_script_payload :
    (PktTerm.withField (.data 0 (.m 0)) (.payload 0) 0x62).value benchCfg =
      dat 0 0x793 0x6161616161616161616161616161616161616162 ∧
    (PktTerm.withField (.data 0 (.m 0)) (.payload 19) 0x62).value benchCfg =
      dat 0 0x793 0x6261616161616161616161616161616161616161 := by decide

/-! ## The commands, at most two tests each: 95_test_vectors §1, §2 -/

/-- AI-2: TIMER_STOP, and the sender cleared. -/
theorem test_aInit : (got (exec .aInit bench)).map (fun t => (t.out, t.a.base, t.a.acked, t.a.timer)) =
    some ([.timerStop], 0, [], .stopped) := by decide
/-- AS-1: the packet, then the timer. -/
theorem test_aSubmit_first : (got (exec (.aSubmit m0) startedCfg)).map (fun t => (t.out, t.a.nextseqnum, t.lastStatus)) =
    some ([.aToChannel (dat 0 0x793 m0), .timerStart 16], 1, .sent) := by decide
/-- AS-7: full across the wrap, `(3 - 9) mod 12 = 6`. -/
theorem test_aSubmit_full :
    (got (exec (.aSubmit m0) { bench with a := { bench.a with base := 9, nextseqnum := 3 } })).map
      (fun t => (t.out, t.a.cntWindowFull, t.lastStatus)) = some ([], 1, .droppedWindowFull) := by decide
/-- AK-9: the last ACK slides across the wrap and empties the window. -/
theorem test_aAckIn_slide :
    (got (exec (.aAckIn (ackOf 10 0x3D4)) { bench with a := { bench.a with acked := [0, 11] } })).map
      (fun t => (t.out, t.a.base, t.a.acked, t.a.timer)) = some ([.timerStop], 1, [], .stopped) := by decide
/-- AK-2: above base, no slide, and the timer is restarted all the same. -/
theorem test_aAckIn_above : (got (exec (.aAckIn (ackOf 11 0x3D6)) bench)).map (fun t => (t.out, t.a.base, t.a.acked)) =
    some ([.timerStop, .timerStart 16], 10, [0, 11]) := by decide
/-- AT-5: offsets 0 and 1; the acked slot and the offsets past nextseqnum are skipped; no TIMER_STOP. -/
theorem test_aTimeout : (got (exec .aTimeout bench)).map (fun t => (t.out, t.a.cntResent)) =
    some ([.aToChannel (dat 10 0x79D m0), .aToChannel (dat 11 0x79E m0), .timerStart 16], 2) := by decide
/-- AT-1: the fault. -/
theorem test_aTimeout_spurious : (got (exec .aTimeout startedCfg)).map (fun t => (t.out, t.fault, t.lastStatus)) =
    some ([], 2, .faultSpuriousTimeout) := by decide
/-- BI-1. -/
theorem test_bInit : (got (exec .bInit bench)).map (fun t => (t.out, t.b.expectedseqnum, t.b.received)) =
    some ([], 0, []) := by decide
/-- BP-9: the drain crosses the wrap. -/
theorem test_bPktIn_drain : (got (exec (.bPktIn (dat 11 0x87A m11)) bench)).map (fun t => (t.out, t.b.expectedseqnum)) =
    some ([.bToChannel (ackOf 11 0x3D6), .bToApp m11, .bToApp m0, .bToApp m1], 2) := by decide
/-- BP-6: a negative seqnum is acknowledged, mirrored whole, and not stored. -/
theorem test_bPktIn_negative :
    (got (exec (.bPktIn ⟨-1, -1, 0x792, m0⟩) startedCfg)).map (fun t => (t.out, t.b.received, t.lastStatus)) =
      some ([.bToChannel (ackOf (-1) 0x3BE)], [], .pktOutsideWindow) := by decide
/-- RS-3: both fault bits. -/
theorem test_reserved : (got (runCommand ⟨0b0111, m0, 0⟩ { startedCfg with fault := 2 })).map (fun t => (t.fault, t.lastStatus)) =
    some (3, .faultReservedOp) := by decide
/-- R190, RS-4: `rst` clears a fault and discards the pending action. -/
theorem test_rst : (got (step { bench with fault := 3, out := [.timerStop], env := [⟨true, true, ⟨1, 0, 0⟩, true⟩] })).map
    (fun t => (t.fault, t.out, t.a.nextseqnum)) = some (0, [], 0) := by decide
/-- R200, AS-1 at the ports: accepted, the two actions are offered and the registers stay. -/
theorem test_accept : (got (step { startedCfg with env := [offer ⟨1, m0, 0⟩] })).map
    (fun t => (t.out, t.a.nextseqnum, t.lastStatus, t.held.isSome)) =
      some ([.aToChannel (dat 0 0x793 m0), .timerStart 16], 0, .initDone, true) := by decide
/-- R200, R201: with the last of the two actions the registers are written. -/
theorem test_written : (got (stepMany 3 { startedCfg with env := [offer ⟨1, m0, 0⟩, taken, taken] })).map
    (fun t => (t.out, t.a.nextseqnum, t.lastStatus, t.held)) = some ([], 1, .sent, none) := by decide
/-- R167: AT-1 and then `rst` leaves no fault bit, and the run is not good all the same; without the command it is. -/
theorem test_goodRun : (got (stepMany 2 { startedCfg with env := [offer ⟨3, 0, 0⟩, asserted] })).map (fun t => t.fault) = some 0 ∧
    goodRun 2 { startedCfg with env := [offer ⟨3, 0, 0⟩, asserted] } = none ∧
    (goodRun 1 { startedCfg with env := [asserted] }).isSome = true := by decide
/-- The same as scripts: `A_TIMEOUT`, `RST`; and `A_SUBMIT M0`, `A_TIMEOUT`, `RST`. -/
theorem test_goodScript : goodScript [.aTimeout, .rst] startedCfg = none ∧
    (goodScript [.aSubmit (.m 0), .aTimeout, .rst] startedCfg).isSome = true := by decide

/-! ## Witnesses: for every statement with hypotheses, states and operands that meet them -/

theorem bench_wellShaped : bench.WellShaped := by
  unfold State.WellShaped State.InRange State.Canonical
  decide

theorem bench_senderInv : bench.SenderInv := by
  refine ⟨by unfold State.WindowBounded; decide, fun x hx => ?_, by unfold State.TimerTracksWindow; decide,
    by unfold State.BaseUnacked; decide, fun x hx => ?_⟩
  · have h : x ∈ [0] := of_decide_eq_true hx
    rw [List.mem_singleton.mp h]
    decide
  · have h := (inOutstanding_nat.mp hx).1
    have h' : x = 10 ∨ x = 11 ∨ x = 0 := by
      have hlt : x < 12 := h
      interval_cases x <;> revert hx <;> decide
    rcases h' with rfl | rfl | rfl <;> exact ⟨m0, by decide⟩

theorem bench_receiverInv : bench.ReceiverInv := by
  refine ⟨fun x hx => ?_, by unfold State.ExpectedNotReceived; decide, fun x hx => ?_⟩ <;>
  · have h : x ∈ [0, 1] := of_decide_eq_true hx
    simp only [List.mem_cons, List.not_mem_nil, or_false] at h
    rcases h with rfl | rfl <;> decide

/-- ResetMeetsInvariants, BuiltSumsStaySmall: a legal configuration, the first and the last sequence number. -/
theorem witness_legal : benchCfg.Legal ∧ 0 < benchCfg.seqSpace ∧ 11 < benchCfg.seqSpace ∧ benchCfg.notInUse = -1 ∧
    (dat 11 0 m0).seqnum = BitVec.ofNat 32 11 := by decide
/-- CommandRoundTrip, second part. -/
theorem witness_CommandRoundTrip : decode ⟨0b0010, 7, (dat 1 2 m0).toBus⟩ = .command (.aAckIn (dat 1 2 m0)) := by decide
/-- ReservedCodesFault: the lowest and the highest reserved code. -/
theorem witness_ReservedCodesFault : (0b0100 : BitVec 4) ∈ Claims.reservedCodes ∧ 0b1111 ∈ Claims.reservedCodes := by decide
/-- OnlyNamedOperandBusRead: two offers that differ in the bus not read, for each operand. -/
theorem witness_OnlyNamedOperandBusRead :
    let c : Command := ⟨0b0001, m0, 1⟩
    let d : Command := ⟨0b0001, m0, 2⟩
    let e : Command := ⟨0b1010, m0, 1⟩
    let f : Command := ⟨0b1010, m1, 1⟩
    (c.op = d.op ∧ (c.op = 0b0001 → c.msg = d.msg) ∧ (c.op = 0b0010 ∨ c.op = 0b1010 → c.pkt = d.pkt)) ∧
    (e.op = f.op ∧ (e.op = 0b0001 → e.msg = f.msg) ∧ (e.op = 0b0010 ∨ e.op = 0b1010 → e.pkt = f.pkt)) := by decide
/-- SingleAlterationDetected, SumPreservingAlterationMissed, ShorthandsAreTheBlocksPackets: a valid packet; another
word; payloads that differ in byte 0, and in byte 19, alone; a permuted payload. -/
theorem witness_alterations :
    isCorrupted (dat 0 0x793 m0) = false ∧ (5 : Word) ≠ (dat 0 0x793 m0).seqnum ∧
    (∀ j < 20, j ≠ 0 → Message.byte 0x6161616161616161616161616161616161616162 j = m0.byte j) ∧
    Message.byte 0x6161616161616161616161616161616161616162 0 ≠ m0.byte 0 ∧
    (∀ j < 20, j ≠ 19 → Message.byte 0x0061616161616161616161616161616161616161 j = m0.byte j) ∧
    Message.byte 0x0061616161616161616161616161616161616161 19 ≠ m0.byte 19 ∧
    (Message.bytes 0x0102).Perm (Message.bytes 0x0201) := by decide

/-- PowerOnReset: a busy block with a fault and `rst`. -/
theorem witness_PowerOnReset :
    let e : PortSample := ⟨true, true, ⟨1, m0, 0⟩, true⟩
    let s : State := { bench with fault := 3, out := [.timerStop], env := [e] }
    s.cfg.Legal ∧ s.env = e :: [] ∧ e.rst = true := by decide

/-- SubmitEffect: `outstanding()` at `W`, at `W - 1` and at 0. -/
theorem witness_SubmitEffect : benchCfg.windowSize ≤ (submitted 6).outstanding ∧
    (submitted 5).outstanding < benchCfg.windowSize ∧ (submitted 0).outstanding < benchCfg.windowSize := by decide
/-- SubmitNeverReachesBase, across the wrap. -/
theorem witness_SubmitNeverReachesBase : bench.WellShaped ∧ bench.outstanding < bench.cfg.windowSize ∧
    ∃ t, exec (.aSubmit m1) bench = .next t := ⟨bench_wellShaped, by decide, _, rfl⟩
/-- CorruptionDiscarded. -/
theorem witness_CorruptionDiscarded : (dat 0 0x792 m0).checksum ≠ checksum (dat 0 0x792 m0) := by decide
/-- AckOutsideRangeIgnored: `nextseqnum`, the slot behind base, -1 and `S`, all uncorrupted. -/
theorem witness_AckOutsideRangeIgnored : bench.cfg.ackWindowCheck = true ∧
    ∀ p ∈ [ackOf 1 0x3C2, ackOf 9 0x3D2, ackOf (-1) 0x3BE, ackOf 12 0x3D8], isCorrupted p = false ∧
      ¬(0 ≤ sint32 p.acknum ∧ sint32 p.acknum < bench.cfg.seqSpace ∧
        seqDist bench.cfg bench.a.base (sint32 p.acknum) < bench.outstanding) := by decide
/-- The ACK of the acked slot 0, at the end of the outstanding range. -/
theorem witness_DuplicateAckIgnored : isCorrupted (ackOf 0 0x3C0) = false ∧
    bench.ackInRange (sint32 (ackOf 0 0x3C0).acknum) = true ∧ bench.acked (seqIndex (ackOf 0 0x3C0).acknum) = true := by
  decide
/-- RangesAreContiguous: a well-shaped state. -/
theorem witness_RangesAreContiguous : bench.WellShaped := bench_wellShaped
/-- NewAckEffect and SlideStopsAtNext: the base slot, and the slot above it. -/
theorem witness_NewAckEffect : bench.WellShaped ∧ bench.SenderInv ∧ bench.cfg.ackWindowCheck = true ∧
    ∀ p ∈ [ackOf 10 0x3D4, ackOf 11 0x3D6], isCorrupted p = false ∧ bench.inOutstanding (sint32 p.acknum) = true ∧
      bench.acked (seqIndex p.acknum) = false := ⟨bench_wellShaped, bench_senderInv, by decide⟩
/-- `bench` in literal mode. -/
def literalBench : State := { bench with cfg := { benchCfg with ackWindowCheck := false } }
/-- NewAckEffect in literal mode: 11, the last of the sequence space, and 9, behind base. -/
theorem witness_NewAckEffect_literal : literalBench.WellShaped ∧ literalBench.cfg.ackWindowCheck = false ∧
    ∀ p ∈ [ackOf 11 0x3D6, ackOf 9 0x3D2], isCorrupted p = false ∧
      (0 ≤ sint32 p.acknum ∧ sint32 p.acknum < literalBench.cfg.seqSpace) ∧
      literalBench.acked (seqIndex p.acknum) = false := by
  refine ⟨?_, by decide⟩
  unfold State.WellShaped State.InRange State.Canonical
  decide
/-- LiteralModeRangeTest: -1 and `S`. -/
theorem witness_LiteralModeRangeTest : literalBench.cfg.ackWindowCheck = false ∧
    ∀ p ∈ [ackOf (-1) 0x3BE, ackOf 12 0x3D8], isCorrupted p = false ∧
      ¬(0 ≤ sint32 p.acknum ∧ sint32 p.acknum < literalBench.cfg.seqSpace) := by decide

/-- TimeoutEffect: STOPPED, and RUNNING. -/
theorem witness_TimeoutEffect : startedCfg.a.timer = .stopped ∧ bench.a.timer = .running := by decide
/-- TimeoutResendsSome. -/
theorem witness_TimeoutResendsSome : bench.WellShaped ∧ bench.SenderInv ∧ bench.a.timer = .running :=
  ⟨bench_wellShaped, bench_senderInv, rfl⟩
/-- ResentPacketsAreOriginals. -/
theorem witness_ResentPacketsAreOriginals : bench.WellShaped ∧ bench.SenderInv ∧
    ∃ t, exec .aTimeout bench = .next t ∧ .aToChannel (dat 10 0x79D m0) ∈ t.out ∧
      .aToChannel (dat 10 0x79D m0) ∉ bench.out := ⟨bench_wellShaped, bench_senderInv, _, rfl, by decide, by decide⟩
/-- The statements about whatever a command answers (SentSlotWrittenOnlyBySubmit, NoOtherConditionFaults,
StopBeforeStart, ActionKindsByEntity, CommandFrames, EntitiesIsolated), and with the invariants TimerTransitionTable and
UnwrittenSlotsNeverSeen: every command answers at `bench`, and A_TIMEOUT also while STOPPED. -/
theorem witness_commands :
    (∀ i ∈ [.aInit, .aSubmit m1, .aAckIn (ackOf 10 0x3D4), .aTimeout, .bInit, .bPktIn (dat 11 0x87A m11)],
      ∃ t, exec i bench = .next t) ∧ (∃ t, exec .aTimeout startedCfg = .next t) ∧
    bench.WellShaped ∧ bench.cfg.ackWindowCheck = true ∧ bench.SenderInv ∧ bench.ReceiverInv :=
  ⟨fun i _ => exec_next i bench, exec_next _ _, bench_wellShaped, rfl, bench_senderInv, bench_receiverInv⟩

/-- ArrivalEffect, DrainBoundedByWindow: accepted at the expected slot, accepted at the last slot of the window, the
first beyond it, a duplicate, `S`. -/
theorem witness_ArrivalEffect : bench.WellShaped ∧ bench.ReceiverInv ∧
    ∀ p ∈ [dat 11 0x87A m11, dat 4 0x797 m0, dat 5 0x798 m0, dat 0 0x793 m0, dat 12 0x79F m0], isCorrupted p = false :=
  ⟨bench_wellShaped, bench_receiverInv, by decide⟩
/-- SecondCopyOnlyReacked, and ReceiverIgnoresAcknum with vectors CK-13. -/
theorem witness_SecondCopy : bench.WellShaped ∧ bench.ReceiverInv ∧ isCorrupted (dat 11 0x79E m0) = false ∧
    isCorrupted ⟨11, 7, 0x7A6, m0⟩ = false ∧ (∃ t, exec (.bPktIn (dat 11 0x79E m0)) bench = .next t) ∧
    ∃ u, exec (.bPktIn ⟨11, 7, 0x7A6, m0⟩) bench = .next u :=
  ⟨bench_wellShaped, bench_receiverInv, by decide, by decide, exec_next _ _, exec_next _ _⟩
/-- HeldSlotNotOverwritten. -/
theorem witness_HeldSlotNotOverwritten : (∃ t, exec (.bPktIn (dat 2 0x795 m0)) bench = .next t) ∧ bench.cfg.Legal ∧
    bench.b.expectedseqnum < bench.cfg.seqSpace := ⟨exec_next _ _, by decide, by decide⟩
/-- AgentsCommute: an A command and a B command, in both orders. -/
theorem witness_AgentsCommute : Instr.aTimeout.entity = .a ∧ (Instr.bPktIn (dat 11 0x87A m11)).entity = .b ∧
    ∃ t u t' u', exec .aTimeout bench = .next t ∧ exec (.bPktIn (dat 11 0x87A m11)) t = .next u ∧
      exec (.bPktIn (dat 11 0x87A m11)) bench = .next t' ∧ exec .aTimeout t' = .next u' :=
  ⟨rfl, rfl, _, _, _, _, rfl, rfl, rfl, rfl⟩

/-- The block offered command `c`, ready for it. -/
def offered (c : Command) : State := { bench with env := [offer c] }
/-- StepRunsDecodedCommand: a command, and a reserved code. -/
theorem witness_StepRunsDecodedCommand :
    (∀ c ∈ [(⟨0b0011, m0, 0⟩ : Command), ⟨0b1001, m0, 0⟩], (offered c).cfg.Legal ∧ (offered c).env = offer c :: [] ∧
      (offer c).rst = false ∧ (offered c).cmdReady = true ∧ (offer c).cmdValid = true) ∧
    decode ⟨0b0011, m0, 0⟩ = .command .aTimeout ∧ decode ⟨0b1001, m0, 0⟩ = .reserved 0b1001 := by decide
/-- CommandFinishesAsExec: a command without an action, and one with two. -/
theorem witness_CommandFinishesAsExec :
    (let s : State := { startedCfg with env := offer ⟨8, 0, 0⟩ :: ([] ++ [idle]) }
     ∃ t, s.cfg.Legal ∧ s.cmdReady = true ∧ (offer ⟨8, 0, 0⟩).rst = false ∧ (offer ⟨8, 0, 0⟩).cmdValid = true ∧
       decode (offer ⟨8, 0, 0⟩).cmd = .command .bInit ∧ exec .bInit { s with env := [idle] } = .next t ∧
       ([] : List PortSample).length = t.out.length ∧ s.env = offer ⟨8, 0, 0⟩ :: ([] ++ [idle])) ∧
    (let s : State := { startedCfg with env := offer ⟨1, m0, 0⟩ :: ([taken, taken] ++ [idle]) }
     ∃ t, s.cfg.Legal ∧ s.cmdReady = true ∧ (offer ⟨1, m0, 0⟩).rst = false ∧ (offer ⟨1, m0, 0⟩).cmdValid = true ∧
       decode (offer ⟨1, m0, 0⟩).cmd = .command (.aSubmit m0) ∧
       exec (.aSubmit m0) { s with env := [idle] } = .next t ∧
       [taken, taken].length = t.out.length ∧ (∀ x ∈ [taken, taken], x.rst = false ∧ x.outReady = true) ∧
       s.env = offer ⟨1, m0, 0⟩ :: ([taken, taken] ++ [idle])) :=
  ⟨⟨_, by decide, rfl, rfl, rfl, rfl, rfl, rfl, rfl⟩, ⟨_, by decide, rfl, rfl, rfl, rfl, rfl, rfl, by decide, rfl⟩⟩

/-- `bench` offering the actions of `A_TIMEOUT`, its update held. -/
def benchUpdate : Update := ⟨{ bench.a with cntResent := 2 }, bench.b, .retransmitted⟩
def busyBench : State := { bench with
  out := [.aToChannel (dat 10 0x79D m0), .aToChannel (dat 11 0x79E m0), .timerStart 16], held := some benchUpdate }
/-- BusyBlockOnlyTransfers: the last action, and not the last, each with `out_ready` 1 and 0. -/
theorem witness_BusyBlockOnlyTransfers :
    ∀ l ∈ [[], [Action.timerStart 16]], ∀ e ∈ [taken, offer ⟨0, 0, 0⟩],
      let s : State := { bench with out := .timerStop :: l, held := some benchUpdate, env := [e] }
      s.cfg.Legal ∧ s.env = e :: [] ∧ e.rst = false ∧ s.out = .timerStop :: l ∧ s.held = some benchUpdate ∧
      (e.outReady = true ∨ e.outReady = false) := by decide
/-- IdleBlockWaits: nothing driven any more, and a sample that offers no command. -/
theorem witness_IdleBlockWaits : bench.cfg.Legal ∧ bench.out = [] ∧ bench.env = [] ∧
    { bench with env := [idle] }.out = [] ∧ { bench with env := [idle] }.env = idle :: [] ∧ idle.rst = false ∧
    idle.cmdValid = false := by decide
/-- FaultedRunIsNeverGood: the second command of a run is reserved; and A_TIMEOUT finds the timer STOPPED. -/
theorem witness_FaultedRunIsNeverGood :
    (∃ u, stepMany 1 { startedCfg with env := [offer ⟨8, 0, 0⟩, offer ⟨9, 0, 0⟩, asserted] } = .next u ∧ u.cmdReady = true ∧
      u.env = offer ⟨9, 0, 0⟩ :: [asserted] ∧ (offer ⟨9, 0, 0⟩).cmd.op ∈ Claims.reservedCodes) ∧
    (∃ u, stepMany 1 { startedCfg with env := [offer ⟨8, 0, 0⟩, offer ⟨3, 0, 0⟩, asserted] } = .next u ∧ u.cmdReady = true ∧
      u.env = offer ⟨3, 0, 0⟩ :: [asserted] ∧ (offer ⟨3, 0, 0⟩).cmd.op = 0b0011 ∧ u.a.timer = .stopped) ∧
    (∀ c : Command, (offer c).rst = false ∧ (offer c).cmdValid = true) ∧ (1 < 3) :=
  ⟨⟨_, rfl, rfl, rfl, by decide⟩, ⟨_, rfl, rfl, rfl, rfl, rfl⟩, fun _ => ⟨rfl, rfl⟩, by decide⟩
/-- LaterDrivesHaveNoEffect, ConfigurationFixed, StepKeepsHandshake, StepKeepsShape, StepKeepsSenderInvariants,
StepKeepsReceiverInvariants, FaultBitsAreSticky: a step that answers, at a ready state that meets every invariant,
without `rst`. -/
theorem witness_step : (∃ t, step { bench with env := [offer ⟨0b1111, 0, 0⟩] } = .next t) ∧
    (∃ t, step bench = .next t) ∧ bench.HandshakeInv ∧ bench.Throughout State.WellShaped ∧
    bench.cfg.ackWindowCheck = true ∧ bench.Throughout State.SenderInv ∧ bench.Throughout State.ReceiverInv ∧
    (∀ e rest, [offer ⟨0b1111, 0, 0⟩] = e :: rest → e.rst = false) :=
  ⟨⟨_, rfl⟩, ⟨_, rfl⟩, by unfold State.HandshakeInv; decide, ⟨bench_wellShaped, bench_wellShaped⟩, rfl,
    ⟨bench_senderInv, bench_senderInv⟩, ⟨bench_receiverInv, bench_receiverInv⟩, fun _ _ h => by cases h; rfl⟩
/-- StepKeepsHandshake, StepKeepsShape, StepKeepsSenderInvariants, StepKeepsReceiverInvariants: a busy state whose held
update meets the invariants too, with a transfer. -/
theorem witness_step_busy : (∃ t, step { busyBench with env := [taken] } = .next t) ∧
    busyBench.HandshakeInv ∧ busyBench.Throughout State.WellShaped ∧ busyBench.cfg.ackWindowCheck = true ∧
    busyBench.Throughout State.SenderInv ∧ busyBench.Throughout State.ReceiverInv :=
  ⟨⟨_, rfl⟩, by unfold State.HandshakeInv; decide, ⟨bench_wellShaped, bench_wellShaped⟩, rfl,
    ⟨bench_senderInv, bench_senderInv⟩, ⟨bench_receiverInv, bench_receiverInv⟩⟩
/-- OnlyBackPressureStops: a ready block with nothing driven, a busy one still driven, a stuck one. -/
theorem witness_OnlyBackPressureStops : bench.cfg.Legal ∧ bench.out = [] ∧ (offered ⟨0, 0, 0⟩).env ≠ [] ∧
    { bench with out := [.timerStop] }.env = [] ∧ { bench with out := [.timerStop] }.out ≠ [] := by decide

end Sys2Proof.Tests
end

section
/-! SUPPORT. The laws of the encodings (30_encoding R71 to R76), and the proofs of the statements about them. -/

namespace Sys2Proof

open Sys2Proof.Machine Sys2Proof.Claims

/-! ### The packet bus (R76) -/

@[simp] theorem extract_seqnum_toBus (p : Packet) : p.toBus.extractLsb' 0 32 = p.seqnum :=
  BitVec.extractLsb'_append_eq_right

@[simp] theorem extract_acknum_toBus (p : Packet) : p.toBus.extractLsb' 32 32 = p.acknum := by
  rw [Packet.toBus, BitVec.extractLsb'_append_eq_of_le (by decide)]
  exact BitVec.extractLsb'_append_eq_right

@[simp] theorem extract_checksum_toBus (p : Packet) : p.toBus.extractLsb' 64 32 = p.checksum := by
  rw [Packet.toBus, BitVec.extractLsb'_append_eq_of_le (by decide), BitVec.extractLsb'_append_eq_of_le (by decide)]
  exact BitVec.extractLsb'_append_eq_right

/-- From bit 96 up the packet bus is a message bus (R76), at every offset and length. -/
@[simp] theorem extract_payload_toBus (p : Packet) (start len : Nat) :
    p.toBus.extractLsb' (96 + start) len = p.payload.extractLsb' start len := by
  have skip {v : Nat} (hi : BitVec v) (lo : Word) (k : Nat) :
      (hi ++ lo).extractLsb' (32 + k) len = hi.extractLsb' k len := by
    rw [BitVec.extractLsb'_append_eq_of_le (by omega), Nat.add_sub_cancel_left]
  rw [show 96 + start = 32 + (32 + (32 + start)) by omega, Packet.toBus, skip, skip, skip]

@[simp] theorem ofBus_toBus (p : Packet) : Packet.ofBus p.toBus = p := by
  have hpayload : p.toBus.extractLsb' 96 160 = p.payload :=
    (extract_payload_toBus p 0 160).trans BitVec.extractLsb'_eq_self
  rw [Packet.ofBus, extract_seqnum_toBus, extract_acknum_toBus, extract_checksum_toBus, hpayload]

/-- The four fields cover the bus: joined again from the top, neighbour by neighbour, they are the whole of it (R76). -/
@[simp] theorem toBus_ofBus (b : PacketBus) : (Packet.ofBus b).toBus = b := by
  have join (start len : Nat) :
      b.extractLsb' (start + 32) len ++ b.extractLsb' start 32 = b.extractLsb' start (len + 32) :=
    BitVec.extractLsb'_append_extractLsb'_eq_extractLsb' rfl
  calc b.extractLsb' 96 160 ++ b.extractLsb' 64 32 ++ b.extractLsb' 32 32 ++ b.extractLsb' 0 32
      = b.extractLsb' 0 256 := by rw [join 64 160, join 32 192, join 0 224]
    _ = b := BitVec.extractLsb'_eq_self

/-- Settles O2: field by field, then byte by byte as the payload part of the bus is a message bus. -/
theorem packetBusLayout : Obligations.PacketBusLayout :=
  ⟨fun p => ⟨extract_seqnum_toBus p, extract_acknum_toBus p, extract_checksum_toBus p,
    fun i _ => extract_payload_toBus p (8 * i) 8⟩, ofBus_toBus, toBus_ofBus⟩

/-! ### The command port: one equation of `decode` per code (R71), and one for the reserved codes (R73) -/

section Decode

variable {c d : Command}

theorem decode_aInit (h : c.op = 0b0000#4) : decode c = .command .aInit := by simp [decode, h]
theorem decode_aSubmit (h : c.op = 0b0001#4) : decode c = .command (.aSubmit c.msg) := by simp [decode, h]
theorem decode_aAckIn (h : c.op = 0b0010#4) : decode c = .command (.aAckIn (Packet.ofBus c.pkt)) := by simp [decode, h]
theorem decode_aTimeout (h : c.op = 0b0011#4) : decode c = .command .aTimeout := by simp [decode, h]
theorem decode_bInit (h : c.op = 0b1000#4) : decode c = .command .bInit := by simp [decode, h]
theorem decode_bPktIn (h : c.op = 0b1010#4) : decode c = .command (.bPktIn (Packet.ofBus c.pkt)) := by simp [decode, h]

/-- R73: the reserved codes are those that R71 gives to no command. -/
theorem mem_reservedCodes_iff {op : BitVec 4} : op ∈ reservedCodes ↔
    op ≠ 0b0000#4 ∧ op ≠ 0b0001#4 ∧ op ≠ 0b0010#4 ∧ op ≠ 0b0011#4 ∧ op ≠ 0b1000#4 ∧ op ≠ 0b1010#4 := by
  revert op
  decide

theorem decode_reserved (h : c.op ∈ reservedCodes) : decode c = .reserved c.op := by
  obtain ⟨h0, h1, h2, h3, h8, h10⟩ := mem_reservedCodes_iff.mp h
  rw [decode, if_neg h0, if_neg h1, if_neg h2, if_neg h3, if_neg h8, if_neg h10]

/-- R71, R73: the table of the 16 codes. -/
theorem op_cases (op : BitVec 4) : op = 0b0000#4 ∨ op = 0b0001#4 ∨ op = 0b0010#4 ∨ op = 0b0011#4 ∨ op = 0b1000#4 ∨
    op = 0b1010#4 ∨ op ∈ reservedCodes := by
  rw [mem_reservedCodes_iff]
  tauto

theorem decode_eq_reserved_iff : decode c = .reserved c.op ↔ c.op ∈ reservedCodes := by
  refine ⟨fun hd => ?_, decode_reserved⟩
  rcases op_cases c.op with h | h | h | h | h | h | h
  · cases (decode_aInit h).symm.trans hd
  · cases (decode_aSubmit h).symm.trans hd
  · cases (decode_aAckIn h).symm.trans hd
  · cases (decode_aTimeout h).symm.trans hd
  · cases (decode_bInit h).symm.trans hd
  · cases (decode_bPktIn h).symm.trans hd
  · exact h

/-- R165: a reserved code is the fault RESERVED_OP, whatever the operand buses hold. -/
theorem runCommand_reserved (h : c.op ∈ reservedCodes) (s : State) :
    runCommand c s = .next (s.raiseFault .reservedOp) := by
  rw [runCommand, decode_reserved h]

/-- R72: `decode` depends on the code and, at the three codes with an operand, on the bus that the code names. -/
theorem decode_congr (hop : c.op = d.op) (hmsg : c.op = 0b0001#4 → c.msg = d.msg)
    (hpkt : c.op = 0b0010#4 ∨ c.op = 0b1010#4 → c.pkt = d.pkt) : decode c = decode d := by
  rcases op_cases c.op with h | h | h | h | h | h | h
  · rw [decode_aInit h, decode_aInit (hop ▸ h)]
  · rw [decode_aSubmit h, decode_aSubmit (hop ▸ h), hmsg h]
  · rw [decode_aAckIn h, decode_aAckIn (hop ▸ h), hpkt (.inl h)]
  · rw [decode_aTimeout h, decode_aTimeout (hop ▸ h)]
  · rw [decode_bInit h, decode_bInit (hop ▸ h)]
  · rw [decode_bPktIn h, decode_bPktIn (hop ▸ h), hpkt (.inr h)]
  · rw [decode_reserved h, decode_reserved (hop ▸ h), hop]

end Decode

/-- Settles O4: the reserved codes are where `decode` names no command, and there `runCommand` raises the fault. -/
theorem reservedCodesFault : Obligations.ReservedCodesFault :=
  fun _ s => ⟨decode_eq_reserved_iff, fun h => runCommand_reserved h s⟩

/-- Settles O5: `decode` code by code. -/
theorem onlyNamedOperandBusRead : Obligations.OnlyNamedOperandBusRead :=
  fun _ _ hop hmsg hpkt => ⟨decode_congr hop hmsg hpkt, decode_aSubmit, decode_aAckIn, decode_bPktIn⟩

end Sys2Proof
end

section
/-! SUPPORT. The validator's sum as a number, and the proofs of the statements about the validator (40_checksum R90,
R93). -/

namespace Sys2Proof

open Sys2Proof.Machine Sys2Proof.Claims

/-! ### The sum, with the fields read unsigned and read signed -/

/-- The 32-bit additions of R90 are one addition of numbers, reduced once. -/
theorem checksum_eq_ofNat (p : Packet) : checksum p = BitVec.ofNat 32
    (p.seqnum.toNat + p.acknum.toNat + ((List.range 20).map fun i => (p.payload.byte i).toNat).sum) := by
  rw [checksum, payloadSum_eq, BitVec.ofNat_add, BitVec.ofNat_add, BitVec.ofNat_toNat, BitVec.ofNat_toNat,
    BitVec.setWidth_eq, BitVec.setWidth_eq]

/-- Reading the two fields signed gives the same word: `BitVec.ofInt` is additive, and undoes `sint32`. -/
theorem checksum_eq_ofInt (p : Packet) : checksum p = BitVec.ofInt 32
    (sint32 p.seqnum + sint32 p.acknum + ((List.range 20).map fun i => (p.payload.byte i).toNat).sum) := by
  rw [checksum, payloadSum_eq, sint32, sint32, BitVec.ofInt_add, BitVec.ofInt_add, BitVec.ofInt_toInt,
    BitVec.ofInt_toInt, BitVec.ofInt_natCast]

theorem checksum_toNat (p : Packet) : (checksum p).toNat =
    (p.seqnum.toNat + p.acknum.toNat + ((List.range 20).map fun i => (p.payload.byte i).toNat).sum) % 2 ^ 32 := by
  rw [checksum_eq_ofNat, BitVec.toNat_ofNat]

/-- R90: the sum does not read the checksum field. -/
@[simp] theorem checksum_with_checksum (p : Packet) (w : Word) : checksum { p with checksum := w } = checksum p := rfl

/-- Settles O7: the sum read unsigned and read signed, the field it leaves out, and the compare of R93. -/
theorem checksumIsSumModulo : Obligations.ChecksumIsSumModulo :=
  fun p => ⟨checksum_toNat p, checksum_eq_ofInt p, checksum_with_checksum p, isCorrupted_iff⟩

end Sys2Proof
end

section
/-! SUPPORT. The laws of a new ACK, and the proofs of the statements about A_INIT, A_SUBMIT, A_ACK_IN and A_TIMEOUT
(41_sender R101 to R124). -/

namespace Sys2Proof

open Sys2Proof.Machine Sys2Proof.Claims

/-! ### The outstanding range (R13) -/

/-- Moving base `k` outstanding slots on leaves `k` fewer outstanding. -/
theorem seqDist_ahead_left {c : Config} {a b k : Nat} (ha : a < c.seqSpace) (hb : b < c.seqSpace)
    (hk : k ≤ seqDist c a b) : seqDist c (ahead c a k) b = seqDist c a b - k := by
  have hd := seqDist_lt ha hb
  rw [seqDist_eq (ahead_lt ha) hb, ahead_eq ha (by omega)]
  rw [seqDist_eq ha hb] at hk hd ⊢
  split_ifs at * <;> omega

/-- The range test as R113 writes it. -/
theorem inOutstanding_iff {s : State} {v : Int} : s.inOutstanding v = true ↔
    0 ≤ v ∧ v < s.cfg.seqSpace ∧ seqDist s.cfg s.a.base v < s.outstanding := by
  simp [State.inOutstanding, inSeqRange_iff, and_assoc]

/-- A field that names an outstanding slot is that slot's index (R53). -/
theorem inOutstanding_seqIndex {s : State} {w : Word} (h : s.inOutstanding (sint32 w) = true) :
    s.inOutstanding (seqIndex w) = true := by
  obtain ⟨hnonneg, hlt, _⟩ := inOutstanding_iff.mp h
  rwa [seqIndex_cast (inSeqRange_iff.mpr ⟨hnonneg, hlt⟩)]

/-! ### A_INIT and A_SUBMIT -/

/-- Settles O16: the state is the clearing written out; the second A_INIT finds the timer stopped. -/
theorem aInitClearsSender : Obligations.AInitClearsSender := by
  intro s
  refine ⟨_, exec_aInit_iff.mpr rfl, rfl, rfl, _, exec_aInit_iff.mpr rfl, ?_⟩
  exact List.append_nil _

/-- R78: the data packet, field by field. -/
theorem dataPacket_eq (c : Config) (n : Nat) (m : Message) : dataPacket c n m =
    ⟨BitVec.ofNat 32 n, c.notInUse, BitVec.ofNat 32 n + c.notInUse + payloadSum m, m⟩ := rfl

/-- Settles O17: the two branches of R105. A sent packet is read back from its slot alone (R11, R54), its bit alone is
cleared, and TIMER_START depends on the timer found. -/
theorem submitEffect : Obligations.SubmitEffect := by
  refine fun m s => ⟨fun hfull => exec_aSubmit_iff.mpr (.inl ⟨hfull, rfl⟩), fun hroom => ?_⟩
  refine ⟨_, exec_aSubmit_iff.mpr (.inr ⟨hroom, rfl⟩), ?buffer, ?acked, ?next, ?timer, ?out, ?_⟩
  case buffer => simp [slotLookup_slotWrite, dataPacket_eq]
  case acked => simp [State.acked, bitGet_bitClear]
  case next => simp [inc]
  case timer => simp
  case out => exact startTimerIfStopped_out (s.sendNew m)
  simp

/-! ### A_TIMEOUT -/

/-- R122: an offset is resent exactly where the slot is unacked and the offset outstanding. -/
theorem resends_iff {s : State} {i : Nat} : s.resends i = true ↔
    s.acked (ahead s.cfg s.a.base i) = false ∧ i < s.outstanding := by
  simp [State.resends, State.acked]

/-- The scan of R122 is the model's: its packets are those of the slots resent, in the same order. -/
theorem resentPackets_eq (s : State) : resentPackets s = s.resendSlots.map s.sentPacket := by
  rw [State.resendSlots, List.map_map, ← List.filterMap_eq_map, List.filterMap_filter]
  refine List.filterMap_congr fun i _ => ?_
  simp only [resends_iff, Function.comp_apply, ahead]

/-- Settles O27: the fault, or the scan and TIMER_START; the timer stays RUNNING. -/
theorem timeoutEffect : Obligations.TimeoutEffect := by
  refine fun s => ⟨fun hstopped => exec_aTimeout_iff.mpr (.inl ⟨hstopped, rfl⟩), fun hrunning => ?_⟩
  refine exec_aTimeout_iff.mpr (.inr ⟨hrunning, ?_⟩)
  apply State.ext <;> simp [resentPackets_eq, ← hrunning]

/-! ### A_ACK_IN -/

/-- R113: under the window check the range test is the outstanding range. -/
theorem ackInRange_of_check {s : State} (hcheck : s.cfg.ackWindowCheck = true) (v : Int) :
    s.ackInRange v = s.inOutstanding v := if_pos hcheck

/-- Settles O20: the second row of R163. -/
theorem ackOutsideRangeIgnored : Obligations.AckOutsideRangeIgnored := by
  intro p s hcheck hok hout
  have hrange : s.ackInRange (sint32 p.acknum) = false := by
    rw [ackInRange_of_check hcheck, ← Bool.not_eq_true, inOutstanding_iff]
    exact hout
  exact exec_aAckIn_iff.mpr (.inr (.inl ⟨hok, hrange, rfl⟩))

/-- Settles O21: the third row of R163. -/
theorem duplicateAckIgnored : Obligations.DuplicateAckIgnored :=
  fun _ _ hok hrange hacked => exec_aAckIn_iff.mpr (.inr (.inr (.inl ⟨hok, hrange, hacked, rfl⟩)))

/-- R115, R116, R118: what a new ACK does, in both modes; the slide's length is that of `slide_spec`. -/
theorem exec_aAckIn_new {p : Packet} {s : State} (hbase : s.a.base < s.cfg.seqSpace) (hok : isCorrupted p = false)
    (hrange : s.ackInRange (sint32 p.acknum) = true) (hnew : s.acked (seqIndex p.acknum) = false) :
    ∃ t k, k ≤ s.cfg.seqSpace ∧ exec (.aAckIn p) s = .next t ∧ NewAckOutcome s t (seqIndex p.acknum) k := by
  obtain ⟨k, hk, hslide, hrun, hstop⟩ :=
    slide_spec s.cfg s.cfg.seqSpace (s.markAcked (seqIndex p.acknum)).a hbase le_rfl
  refine ⟨_, k, hk, exec_aAckIn_iff.mpr (.inr (.inr (.inr ⟨hok, hrange, hnew, rfl⟩))), ?_⟩
  simp only [markAcked_a, bitGet_bitSet] at hslide hrun hstop
  refine ⟨hrun, hstop, ?base, ?acked, ?_⟩
  case base => simp [hslide, ahead]
  case acked =>
    intro y
    simp only [State.acked, setStatus_a, timerAfterSlide_a, slideBase_a, markAcked_a, markAcked_cfg, hslide,
      bitGet_clearRun, bitGet_bitSet]
    rfl
  simp [hslide]

/-- The run of set bits that the slide passes ends at or before nextseqnum: the bit of nextseqnum itself is clear
(IA2), and the ACK in range does not name it. -/
theorem slide_le_outstanding {s : State} {x k : Nat} (hbase : s.a.base < s.cfg.seqSpace)
    (hnext : s.a.nextseqnum < s.cfg.seqSpace) (hacked : s.AckedOutstanding) (hx : s.inOutstanding x = true)
    (hrun : ∀ j < k, (decide (ahead s.cfg s.a.base j = x) || s.acked (ahead s.cfg s.a.base j)) = true) :
    k ≤ s.outstanding := by
  have hnot : ¬s.inOutstanding (ahead s.cfg s.a.base s.outstanding) = true := fun h =>
    lt_irrefl _ ((inOutstanding_ahead hbase (seqDist_lt hbase hnext)).mp h)
  by_contra hk
  rcases Bool.or_eq_true_iff.mp (hrun s.outstanding (not_le.mp hk)) with h | h
  · exact hnot (of_decide_eq_true h ▸ hx)
  · exact hnot (hacked _ h)

/-- Settles O24: the slide's length is bounded by `slide_le_outstanding`; the acknowledged slot itself is outstanding,
so the timer runs (IA3). -/
theorem slideStopsAtNext : Obligations.SlideStopsAtNext := by
  rintro p s ⟨_, ⟨hbase, hnext, _⟩, _⟩ hcheck ⟨hwindow, hacked, htimer, _, _⟩ hok hin hnew
  obtain ⟨t, k, _, hexec, hout⟩ := exec_aAckIn_new hbase hok ((ackInRange_of_check hcheck _).trans hin) hnew
  obtain ⟨hrun, _, htbase, _, _, _, _, htnext, _, _, _, _, _, htcfg, _⟩ := id hout
  have hk : k ≤ s.outstanding := slide_le_outstanding hbase hnext hacked (inOutstanding_seqIndex hin) hrun
  have hleft : t.outstanding = s.outstanding - k := by
    rw [State.outstanding, htbase, htnext, htcfg]
    exact seqDist_ahead_left hbase hnext hk
  have hrunning : s.a.timer = .running := htimer.mpr (Nat.zero_lt_of_lt (inOutstanding_iff.mp hin).2.2)
  exact ⟨t, k, hexec, hout, hk, hwindow, hleft, hrunning⟩

end Sys2Proof
end

section
/-! SUPPORT. The laws of an arrival at B, and the proofs of the statements about B_INIT and B_PKT_IN (42_receiver R141
to R150). -/

namespace Sys2Proof

open Sys2Proof.Machine Sys2Proof.Claims

/-! ### B_INIT -/

/-- Settles O31: the clearing written out; no bit is left set, and the buffer is not touched. -/
theorem bInitClearsReceiver : Obligations.BInitClearsReceiver := by
  intro s
  refine ⟨_, exec_bInit_iff.mpr rfl, rfl, ?_, fun _ => rfl, rfl⟩
  simp [State.received, Receiver.clear, bitGet]

/-! ### The acceptance step (R145, R146) -/

section Arrival

variable {s : State} {p : Packet}

/-- The claims' test of acceptance is the model's. -/
theorem arrivalStatus_accepts : s.arrivalStatus p = .pktAccepted ↔ accepts s p = true := by
  simp [arrivalStatus_accepted, accepts, State.received]

/-- An acceptance writes the whole packet to its own slot; nothing else writes a slot. -/
theorem slotLookup_acceptPacket (y : Nat) : slotLookup (s.acceptPacket p).b.recvBuffer y =
    if accepts s p = true ∧ y = seqIndex p.seqnum then some p else slotLookup s.b.recvBuffer y := by
  by_cases hacc : accepts s p = true <;> simp [arrivalStatus_accepts, hacc, slotLookup_slotWrite]

/-- An acceptance sets the packet's own bit and no other. -/
theorem received_acceptPacket (y : Nat) : (s.acceptPacket p).received y =
    (s.received y || (accepts s p && decide (y = seqIndex p.seqnum))) := by
  by_cases hacc : accepts s p = true <;>
    simp [State.received, arrivalStatus_accepts, hacc, bitGet_bitSet, Bool.or_comm]

/-- An accepted packet's seqnum is a sequence number. -/
theorem accepts_inSeqRange (hacc : accepts s p = true) : inSeqRange s.cfg (sint32 p.seqnum) = true := by
  obtain ⟨hwindow, _⟩ := Bool.and_eq_true_iff.mp hacc
  exact (Bool.and_eq_true_iff.mp hwindow).1

/-- An accepted packet's index lies in the receive window (R53). -/
theorem inRecvWindow_seqIndex (hacc : accepts s p = true) : s.inRecvWindow (seqIndex p.seqnum) = true := by
  rw [seqIndex_cast (accepts_inSeqRange hacc)]
  exact (Bool.and_eq_true_iff.mp hacc).1

/-! ### What an uncorrupted packet does -/

/-- What the drain starts from: the ACK is emitted (R148) and the acceptance step done (R145, R146). -/
def beforeDrain (s : State) (p : Packet) : State := (s.emit (.bToChannel (ackPacket s.cfg p))).acceptPacket p

/-- R144: the command is its drain, from `beforeDrain`, and its status. -/
theorem exec_bPktIn_uncorrupted (hok : isCorrupted p = false) :
    exec (.bPktIn p) s = .next ((beforeDrain s p).drainAll.setStatus (s.arrivalStatus p)) :=
  exec_bPktIn_iff.mpr (.inr ⟨hok, rfl⟩)

theorem beforeDrain_slotLookup (y : Nat) : slotLookup (beforeDrain s p).b.recvBuffer y =
    if accepts s p = true ∧ y = seqIndex p.seqnum then some p else slotLookup s.b.recvBuffer y :=
  slotLookup_acceptPacket y

theorem beforeDrain_received (y : Nat) : (beforeDrain s p).received y =
    (s.received y || (accepts s p && decide (y = seqIndex p.seqnum))) := received_acceptPacket y

@[simp] theorem beforeDrain_expectedseqnum : (beforeDrain s p).b.expectedseqnum = s.b.expectedseqnum := by
  rw [beforeDrain, acceptPacket_b]; split <;> rfl
@[simp] theorem beforeDrain_cntDelivered : (beforeDrain s p).b.cntDelivered = s.b.cntDelivered := by
  rw [beforeDrain, acceptPacket_b]; split <;> rfl
@[simp] theorem beforeDrain_out :
    (beforeDrain s p).out = s.out ++ [.bToChannel (ackPacket s.cfg p)] := acceptPacket_out _ _
@[simp] theorem beforeDrain_cfg : (beforeDrain s p).cfg = s.cfg := acceptPacket_cfg _ _
@[simp] theorem beforeDrain_a : (beforeDrain s p).a = s.a := acceptPacket_a _ _
@[simp] theorem beforeDrain_fault : (beforeDrain s p).fault = s.fault := acceptPacket_fault _ _
@[simp] theorem beforeDrain_env : (beforeDrain s p).env = s.env := acceptPacket_env _ _
@[simp] theorem beforeDrain_held : (beforeDrain s p).held = s.held := acceptPacket_held _ _
@[simp] theorem beforeDrain_epoch : (beforeDrain s p).epoch = s.epoch := acceptPacket_epoch _ _

/-- R79: the ACK, field by field. -/
theorem ackPacket_eq (c : Config) (p : Packet) : ackPacket c p =
    ⟨p.seqnum, p.seqnum, p.seqnum + p.seqnum + payloadSum c.ackFiller, c.ackFiller⟩ := rfl

/-- The status of R144, its tests in the order of the claims. -/
theorem arrivalStatus_eq (s : State) (p : Packet) : s.arrivalStatus p =
    if s.inRecvWindow (sint32 p.seqnum) = false then .pktOutsideWindow
    else if s.received (seqIndex p.seqnum) = true then .pktDuplicate else .pktAccepted := by
  unfold State.arrivalStatus State.received
  cases s.inRecvWindow (sint32 p.seqnum) <;> rfl

end Arrival

/-- Settles O32: the drain's run is that of `drain_spec`, from the state that the ACK and the acceptance step leave. -/
theorem arrivalEffect : Obligations.ArrivalEffect := by
  rintro p s ⟨_, ⟨_, _, hexp, _⟩, _⟩ hok
  obtain ⟨k, hk, hdrain, hrun, hstop⟩ := drain_spec s.cfg.seqSpace (beforeDrain s p) (by simpa using hexp) (by simp)
  have hbits : ∀ y, bitGet (beforeDrain s p).b.received y = _ := beforeDrain_received
  simp only [hbits, beforeDrain_expectedseqnum, beforeDrain_cfg] at hrun hstop
  refine ⟨_, k, hk, exec_bPktIn_uncorrupted hok, ?_⟩
  rw [State.drainAll, beforeDrain_cfg, hdrain]
  refine ⟨beforeDrain_slotLookup, hrun, hstop, ?expected, ?received, ?count, ?out, arrivalStatus_eq s p, ?_⟩
  case expected => simp [ahead]
  case received =>
    intro y
    rw [State.received, setStatus_b, bitGet_clearRun, hbits, beforeDrain_expectedseqnum, beforeDrain_cfg]
    rfl
  case count => simp
  case out =>
    rw [setStatus_out, deliveries, beforeDrain_out, ackPacket_eq]
    simp [ahead, State.heldPacket]
  simp

/-! ### The drain under the receiver invariants (R147) -/

section Window

variable {s : State} {p : Packet}

/-- The drain's run, in the bits the acceptance step leaves. -/
theorem arrivalOutcome_run {t : State} {k : Nat} (h : ArrivalOutcome s t p k) :
    (∀ j < k, (beforeDrain s p).received (ahead s.cfg s.b.expectedseqnum j) = true) ∧
    (k = s.cfg.seqSpace ∨ (beforeDrain s p).received (ahead s.cfg s.b.expectedseqnum k) = false) := by
  obtain ⟨_, hrun, hstop, _⟩ := h
  simp only [beforeDrain_received]
  exact ⟨hrun, hstop⟩

/-- IB1 holds after the acceptance step: an accepted packet lies in the window. -/
theorem beforeDrain_inWindow {x : Nat} (hinv : s.ReceivedInWindow) (hx : (beforeDrain s p).received x = true) :
    s.inRecvWindow x = true := by
  rw [beforeDrain_received] at hx
  rcases Bool.or_eq_true_iff.mp hx with hbit | hnew
  · exact hinv x hbit
  · obtain ⟨hacc, hslot⟩ := Bool.and_eq_true_iff.mp hnew
    rw [of_decide_eq_true hslot]
    exact inRecvWindow_seqIndex hacc

/-- A run of received slots from expectedseqnum ends inside the window: the slot `W` ahead is outside. -/
theorem run_le_windowSize {k : Nat} (hlegal : s.cfg.Legal) (hexp : s.b.expectedseqnum < s.cfg.seqSpace)
    (hinv : s.ReceivedInWindow)
    (hrun : ∀ j < k, (beforeDrain s p).received (ahead s.cfg s.b.expectedseqnum j) = true) :
    k ≤ s.cfg.windowSize := by
  obtain ⟨hpos, _, hspace⟩ := legal_iff.mp hlegal
  by_contra hk
  have hwindow := beforeDrain_inWindow hinv (hrun s.cfg.windowSize (not_le.mp hk))
  exact lt_irrefl _ ((inRecvWindow_ahead hexp (by omega)).mp hwindow)

/-- Under IB2 the expected slot is received after the acceptance step exactly if the packet names it. -/
theorem beforeDrain_received_expected (hlegal : s.cfg.Legal) (hexp : s.b.expectedseqnum < s.cfg.seqSpace)
    (hinv : s.received s.b.expectedseqnum = false) :
    (beforeDrain s p).received s.b.expectedseqnum = true ↔ sint32 p.seqnum = s.b.expectedseqnum := by
  rw [beforeDrain_received, hinv, Bool.false_or, Bool.and_eq_true_iff, decide_eq_true_iff]
  constructor
  · rintro ⟨hacc, hslot⟩
    rw [hslot, seqIndex_cast (accepts_inSeqRange hacc)]
  · intro hseq
    have hslot : seqIndex p.seqnum = s.b.expectedseqnum := by rw [seqIndex, hseq, Int.toNat_natCast]
    have hwindow := (inRecvWindow_ahead hexp (i := 0) (by omega)).mpr (legal_iff.mp hlegal).1
    rw [ahead_zero hexp] at hwindow
    exact ⟨by simp [accepts, hseq, hslot, hwindow, hinv], hslot.symm⟩

end Window

/-- Settles O33: the run of O32 is bounded by `run_le_windowSize`; it is empty unless the packet fills the expected
slot. -/
theorem drainBoundedByWindow : Obligations.DrainBoundedByWindow := by
  rintro p s hshape ⟨hwindow, hexpected, _⟩ hok
  obtain ⟨hlegal, ⟨_, _, hexp, _⟩, _⟩ := id hshape
  obtain ⟨t, k, _, hexec, hout⟩ := arrivalEffect p s hshape hok
  obtain ⟨hrun, hstop⟩ := arrivalOutcome_run hout
  refine ⟨t, k, hexec, hout, run_le_windowSize hlegal hexp hwindow hrun, ?_⟩
  rw [← beforeDrain_received_expected hlegal hexp hexpected, ← ahead_zero hexp]
  refine ⟨hrun 0, fun hfilled => Nat.pos_of_ne_zero ?_⟩
  rintro rfl
  rcases hstop with hspace | hclear
  · omega
  · exact Bool.false_ne_true (hclear.symm.trans hfilled)

/-! ### The receiver and acknum (R150) -/

/-- The state with another receive buffer. -/
def withRecvBuffer (s : State) (l : List (Nat × Packet)) : State := { s with b := { s.b with recvBuffer := l } }

section Acknum

variable {s : State} {p q : Packet} {l : List (Nat × Packet)}

/-- Of the buffer, a delivery reads the payload at expectedseqnum alone. -/
theorem deliverOne_withRecvBuffer (hpay : ((withRecvBuffer s l).heldPacket s.b.expectedseqnum).payload =
    (s.heldPacket s.b.expectedseqnum).payload) :
    (withRecvBuffer s l).deliverOne = withRecvBuffer s.deliverOne l := by
  apply State.ext
  case out => exact congrArg (fun m => s.out ++ [Action.bToApp m]) hpay
  all_goals rfl

/-- Of the buffer, the drain reads the payloads alone, and it leaves the buffer as it is. -/
theorem drain_withRecvBuffer (n : Nat)
    (hpay : ∀ i, ((withRecvBuffer s l).heldPacket i).payload = (s.heldPacket i).payload) :
    drain n (withRecvBuffer s l) = withRecvBuffer (drain n s) l := by
  induction n generalizing s with
  | zero => rfl
  | succ n ih =>
    unfold drain
    rw [deliverOne_withRecvBuffer (hpay _), ih (s := s.deliverOne) hpay]
    exact (apply_ite (withRecvBuffer · l) _ _ _).symm

theorem arrivalStatus_congr (hseq : p.seqnum = q.seqnum) : s.arrivalStatus p = s.arrivalStatus q := by
  rw [arrivalStatus_eq, arrivalStatus_eq, hseq]

theorem acceptPacket_withRecvBuffer (hseq : p.seqnum = q.seqnum) :
    s.acceptPacket p = withRecvBuffer (s.acceptPacket q) (s.acceptPacket p).b.recvBuffer := by
  unfold State.acceptPacket
  rw [arrivalStatus_congr hseq]
  split <;> simp [withRecvBuffer, State.storePacket, hseq]

/-- Packets with the same seqnum leave the drain to start from states that differ in the buffer alone. -/
theorem beforeDrain_withRecvBuffer (hseq : p.seqnum = q.seqnum) :
    beforeDrain s p = withRecvBuffer (beforeDrain s q) (beforeDrain s p).b.recvBuffer := by
  have hack : ackPacket s.cfg p = ackPacket s.cfg q := by rw [ackPacket_eq, ackPacket_eq, hseq]
  unfold beforeDrain
  rw [hack]
  exact acceptPacket_withRecvBuffer hseq

/-- With the same payload too, the buffers hold the same payloads. -/
theorem beforeDrain_payload (hseq : p.seqnum = q.seqnum) (hpay : p.payload = q.payload) (i : Nat) :
    ((beforeDrain s p).heldPacket i).payload = ((beforeDrain s q).heldPacket i).payload := by
  have hacc : accepts s p = accepts s q := by simp only [accepts, hseq]
  simp only [State.heldPacket, slotRead, beforeDrain_slotLookup, beforeDrain_epoch, hacc, hseq]
  by_cases hslot : accepts s q = true ∧ i = seqIndex q.seqnum
  · simp only [if_pos hslot, hpay]
  · simp only [if_neg hslot]

end Acknum

/-- Settles O35: the ACK, the acceptance and the status read the seqnum alone, and the drain reads the payloads alone.
-/
theorem receiverIgnoresAcknum : Obligations.ReceiverIgnoresAcknum := by
  intro p q s t u _ hp hq hseq hpay ht hu
  obtain rfl := next_inj.mp ((exec_bPktIn_uncorrupted hp).symm.trans ht)
  obtain rfl := next_inj.mp ((exec_bPktIn_uncorrupted hq).symm.trans hu)
  have hstart := beforeDrain_withRecvBuffer (s := s) hseq
  have hdrain : (beforeDrain s p).drainAll =
      withRecvBuffer (beforeDrain s q).drainAll (beforeDrain s p).b.recvBuffer := by
    rw [State.drainAll, State.drainAll, beforeDrain_cfg, beforeDrain_cfg, ← drain_withRecvBuffer, ← hstart]
    intro i
    rw [← hstart]
    exact beforeDrain_payload hseq hpay i
  rw [hdrain, arrivalStatus_congr hseq]
  exact ⟨rfl, rfl, rfl, rfl, rfl, rfl, rfl⟩

end Sys2Proof
end

section
/-! SUPPORT. The status and the fault register a command ends with, and the proofs of the statements about outcomes
(60_exceptions R160 to R168). -/

namespace Sys2Proof

open Sys2Proof.Machine Sys2Proof.Claims

section Outcomes

variable {c : Command} {i : Instr} {s t : State}

/-! ### Statuses (R161) -/

/-- R161: no status has one of the reserved codes. -/
theorem code_ne_reserved (st : Status) : st.code ≠ 0xC ∧ st.code ≠ 0xD := by
  cases st <;> decide

/-- R161: the column 'Set by' of RESERVED_OP names no command. -/
theorem ne_faultReservedOp_of_mem_commandStatuses {st : Status} (h : st ∈ commandStatuses i) :
    st ≠ .faultReservedOp := by
  rintro rfl
  cases i <;> simp [commandStatuses] at h

theorem arrivalStatus_mem_commandStatuses (s : State) (p : Packet) :
    s.arrivalStatus p ∈ commandStatuses (.bPktIn p) := by
  rw [arrivalStatus_eq]
  split_ifs <;> simp [commandStatuses]

/-- R160, R161: branch by branch, the status a command ends with is one of its column. -/
theorem exec_lastStatus_mem (h : exec i s = .next t) : t.lastStatus ∈ commandStatuses i := by
  cases i with
  | aInit => simp [exec_aInit_iff.mp h, commandStatuses]
  | aSubmit m => rcases exec_aSubmit_iff.mp h with ⟨_, rfl⟩ | ⟨_, rfl⟩ <;> simp [commandStatuses]
  | aAckIn p =>
    rcases exec_aAckIn_iff.mp h with ⟨_, rfl⟩ | ⟨_, _, rfl⟩ | ⟨_, _, _, rfl⟩ | ⟨_, _, _, rfl⟩ <;>
      simp [commandStatuses]
  | aTimeout =>
    rcases exec_aTimeout_iff.mp h with ⟨_, rfl⟩ | ⟨_, rfl⟩ <;> simp [commandStatuses, FaultBit.status]
  | bInit => simp [exec_bInit_iff.mp h, commandStatuses]
  | bPktIn p =>
    rcases exec_bPktIn_iff.mp h with ⟨_, rfl⟩ | ⟨_, rfl⟩
    · simp [commandStatuses]
    · exact arrivalStatus_mem_commandStatuses s p

/-! ### What the command port can hold (R71, R73) -/

/-- R71, R73: a code that is not reserved is that of a command. -/
theorem exists_decode_command (h : c.op ∉ reservedCodes) : ∃ i, decode c = .command i := by
  rcases op_cases c.op with h0 | h1 | h2 | h3 | h8 | h10 | hres
  · exact ⟨_, decode_aInit h0⟩
  · exact ⟨_, decode_aSubmit h1⟩
  · exact ⟨_, decode_aAckIn h2⟩
  · exact ⟨_, decode_aTimeout h3⟩
  · exact ⟨_, decode_bInit h8⟩
  · exact ⟨_, decode_bPktIn h10⟩
  · exact absurd hres h

theorem runCommand_command (h : decode c = .command i) (s : State) : runCommand c s = exec i s := by
  rw [runCommand, h]

/-! ### The fault register (R168) -/

/-- R168: every command but A_TIMEOUT leaves the fault register alone, in every branch. -/
theorem exec_fault_eq (hi : i ≠ .aTimeout) (h : exec i s = .next t) : t.fault = s.fault := by
  cases i with
  | aInit => simp [exec_aInit_iff.mp h]
  | aSubmit m => rcases exec_aSubmit_iff.mp h with ⟨_, rfl⟩ | ⟨_, rfl⟩ <;> simp
  | aAckIn p =>
    rcases exec_aAckIn_iff.mp h with ⟨_, rfl⟩ | ⟨_, _, rfl⟩ | ⟨_, _, _, rfl⟩ | ⟨_, _, _, rfl⟩ <;> simp
  | aTimeout => exact absurd rfl hi
  | bInit => simp [exec_bInit_iff.mp h]
  | bPktIn p =>
    rcases exec_bPktIn_iff.mp h with ⟨_, rfl⟩ | ⟨_, rfl⟩
    · simp
    · simp [State.drainAll, drain_frame]

end Outcomes

/-- Settles O37: a command ends as `exec_lastStatus_mem` says; a reserved code ends with a status that no command
sets. -/
theorem everyCommandCompletes : Obligations.EveryCommandCompletes := by
  refine ⟨fun i s => ?_, fun c s => ?_⟩
  · obtain ⟨t, ht⟩ := exec_next i s
    exact ⟨t, ht, exec_lastStatus_mem ht, code_ne_reserved _⟩
  · by_cases hres : c.op ∈ reservedCodes
    · exact ⟨_, runCommand_reserved hres s, iff_of_true rfl hres⟩
    · obtain ⟨i, hi⟩ := exists_decode_command hres
      obtain ⟨t, ht⟩ := exec_next i s
      have hne : t.lastStatus ≠ .faultReservedOp :=
        ne_faultReservedOp_of_mem_commandStatuses (exec_lastStatus_mem ht)
      exact ⟨t, (runCommand_command hi s).trans ht, iff_of_false hne hres⟩

/-- Settles O38: only A_TIMEOUT can fault, and it does so exactly while STOPPED. -/
theorem noOtherConditionFaults : Obligations.NoOtherConditionFaults := by
  intro i s t h
  by_cases hi : i = .aTimeout
  · subst hi
    rcases exec_aTimeout_iff.mp h with ⟨hstopped, rfl⟩ | ⟨hrunning, rfl⟩
    · exact .inl ⟨rfl, hstopped, rfl⟩
    · exact .inr ⟨by simp [hrunning], rfl⟩
  · exact .inr ⟨fun hspurious => hi hspurious.1, exec_fault_eq hi h⟩

end Sys2Proof
end

section
/-! SUPPORT. Commands and packets there and back again: the proofs of the statements about `encode` (30_encoding R71,
R72) and about the serialised form (R83). -/

namespace Sys2Proof

open Sys2Proof.Machine Sys2Proof.Claims

/-! ### The command port -/

theorem decode_encode (i : Instr) : decode (encode i) = .command i := by
  cases i with
  | aInit => exact decode_aInit rfl
  | aSubmit m => exact decode_aSubmit rfl
  | aAckIn p => exact (decode_aAckIn rfl).trans (congrArg (Decoded.command <| .aAckIn ·) (ofBus_toBus p))
  | aTimeout => exact decode_aTimeout rfl
  | bInit => exact decode_bInit rfl
  | bPktIn p => exact (decode_bPktIn rfl).trans (congrArg (Decoded.command <| .bPktIn ·) (ofBus_toBus p))

theorem encode_op (i : Instr) : (encode i).op = i.opcode := by cases i <;> rfl

/-- R71: each code stands for one command, so a command found on the port carries its own code. -/
theorem op_of_decode_command {c : Command} {i : Instr} (h : decode c = .command i) : c.op = i.opcode := by
  rcases op_cases c.op with hop | hop | hop | hop | hop | hop | hop
  · cases (decode_aInit hop).symm.trans h; exact hop
  · cases (decode_aSubmit hop).symm.trans h; exact hop
  · cases (decode_aAckIn hop).symm.trans h; exact hop
  · cases (decode_aTimeout hop).symm.trans h; exact hop
  · cases (decode_bInit hop).symm.trans h; exact hop
  · cases (decode_bPktIn hop).symm.trans h; exact hop
  · cases (decode_reserved hop).symm.trans h

/-- Settles O1: `decode` undoes `encode` constructor by constructor, and `encode` drives the code of the command. -/
theorem commandRoundTrip : Obligations.CommandRoundTrip :=
  ⟨decode_encode, fun _ i h => (op_of_decode_command h).trans (encode_op i).symm⟩

/-- Settles O6: each word carries a code of R71; the operands are read off their buses by evaluation. -/
theorem writtenOutWordsDecode : Obligations.WrittenOutWordsDecode := by
  unfold Obligations.WrittenOutWordsDecode
  decide

/-! ### The serialised form (R83) -/

@[simp] theorem length_serialise (p : Packet) : p.serialise.length = 32 := by
  simp [Packet.serialise, wordBytes, Message.bytes]

theorem bytesToNat_append (l r : List Byte) :
    bytesToNat (l ++ r) = bytesToNat l + 256 ^ l.length * bytesToNat r := by
  induction l with
  | nil => simp [bytesToNat]
  | cons b l ih =>
    rw [List.cons_append, bytesToNat, ih, bytesToNat, List.length_cons]
    ring

/-- The lowest `n` bytes of a word, as a number, are the word modulo `256^n`. -/
theorem bytesToNat_extract {w : Nat} (x : BitVec w) (n : Nat) :
    bytesToNat ((List.range n).map fun i => x.extractLsb' (8 * i) 8) = x.toNat % 256 ^ n := by
  induction n with
  | zero => simp [bytesToNat, Nat.mod_one]
  | succ n ih =>
    have hpow : 2 ^ (8 * n) = 256 ^ n := by rw [pow_mul]; rfl
    rw [List.range_succ, List.map_append, bytesToNat_append, ih, Nat.mod_pow_succ]
    simp [bytesToNat, Nat.shiftRight_eq_div_pow, hpow]

theorem bytesToNat_wordBytes (w : Word) : bytesToNat (wordBytes w) = w.toNat :=
  (bytesToNat_extract w 4).trans (Nat.mod_eq_of_lt w.isLt)

theorem bytesToNat_bytes (m : Message) : bytesToNat m.bytes = m.toNat :=
  (bytesToNat_extract m 20).trans (Nat.mod_eq_of_lt m.isLt)

/-- Joining a word below a number: the number moves up by 32 bits. -/
theorem toNat_append_word {n : Nat} (x : BitVec n) (y : Word) : (x ++ y).toNat = y.toNat + 2 ^ 32 * x.toNat := by
  rw [BitVec.toNat_append, ← Nat.shiftLeft_add_eq_or_of_lt y.isLt, Nat.shiftLeft_eq]
  ring

/-- The bytes of the serialised form are those of the packet bus, lowest first. -/
theorem bytesToNat_serialise (p : Packet) : bytesToNat p.serialise = p.toBus.toNat := by
  have hword (w : Word) : 256 ^ (wordBytes w).length = 2 ^ 32 := by simp [wordBytes]
  simp only [Packet.serialise, Packet.toBus, List.append_assoc, bytesToNat_append, bytesToNat_wordBytes,
    bytesToNat_bytes, toNat_append_word, hword]

/-- Settles O3: read as one number the 32 bytes are the packet bus, which gives the packet back. -/
theorem serialisedFormRoundTrip : Obligations.SerialisedFormRoundTrip := by
  refine fun p => ⟨length_serialise p, ?_⟩
  rw [Packet.ofSerialised, if_pos (length_serialise p), bytesToNat_serialise, BitVec.ofNat_toNat, BitVec.setWidth_eq,
    ofBus_toBus]

end Sys2Proof
end

section
/-! SUPPORT. What the validator detects and what it misses (40_checksum R91, R92, R94), the script's shorthands
(30_encoding R86), and the proofs of the statements about them. -/

namespace Sys2Proof

open Sys2Proof.Machine Sys2Proof.Claims

section Validator

variable {p : Packet}

/-! ### Alterations (R94) -/

/-- The sum of the payload bytes as numbers, as R90 adds them. -/
def byteSum (m : Message) : Nat := ((List.range 20).map fun i => (m.byte i).toNat).sum

theorem payloadSum_eq_byteSum (m : Message) : payloadSum m = BitVec.ofNat 32 (byteSum m) := payloadSum_eq m

theorem byteSum_bound (m : Message) : byteSum m ≤ 5100 := byteSum_le m 20

/-- One byte and the sum of the others. -/
theorem byteSum_split (m : Message) {i : Nat} (hi : i < 20) :
    byteSum m = (m.byte i).toNat + ∑ j ∈ (Finset.range 20).erase i, (m.byte j).toNat :=
  (Finset.add_sum_erase _ (fun j => (m.byte j).toNat) (Finset.mem_range.mpr hi)).symm

/-- Two payloads that differ in exactly one byte have different sums: twenty bytes do not wrap 32 bits. -/
theorem payloadSum_ne {m n : Message} {i : Nat} (hi : i < 20) (hsame : ∀ j < 20, j ≠ i → m.byte j = n.byte j)
    (hdiff : m.byte i ≠ n.byte i) : payloadSum m ≠ payloadSum n := by
  have hrest : ∑ j ∈ (Finset.range 20).erase i, (m.byte j).toNat = ∑ j ∈ (Finset.range 20).erase i, (n.byte j).toNat :=
    Finset.sum_congr rfl fun j hj => by
      obtain ⟨hne, hlt⟩ := Finset.mem_erase.mp hj
      rw [hsame j (Finset.mem_range.mp hlt) hne]
  have hbyte : (m.byte i).toNat ≠ (n.byte i).toNat := fun h => hdiff (BitVec.eq_of_toNat_eq h)
  have hm := byteSum_bound m
  have hn := byteSum_bound n
  intro h
  have hsum := congrArg BitVec.toNat h
  rw [payloadSum_eq_byteSum, payloadSum_eq_byteSum, BitVec.toNat_ofNat, BitVec.toNat_ofNat, Nat.mod_eq_of_lt (by omega),
    Nat.mod_eq_of_lt (by omega), byteSum_split m hi, byteSum_split n hi] at hsum
  omega

/-- A packet with another sum in place of an uncorrupted one's, its checksum field kept, is corrupted. -/
theorem isCorrupted_of_checksum_ne {q : Packet} (hok : isCorrupted p = false) (hfield : q.checksum = p.checksum)
    (hsum : checksum q ≠ checksum p) : isCorrupted q = true := by
  rw [isCorrupted_iff, hfield, not_isCorrupted_iff.mp hok]
  exact hsum.symm

/-- The checksum field itself altered. -/
theorem isCorrupted_with_checksum {w : Word} (hok : isCorrupted p = false) (hw : w ≠ p.checksum) :
    isCorrupted { p with checksum := w } = true := by
  rw [isCorrupted_iff, checksum_with_checksum, ← not_isCorrupted_iff.mp hok]
  exact hw

theorem payloadSum_perm {m n : Message} (h : m.bytes.Perm n.bytes) : payloadSum m = payloadSum n :=
  (h.map _).sum_eq

end Validator

/-- Settles O9: each of the three addends alone decides the sum, one byte decides the payload's. -/
theorem singleAlterationDetected : Obligations.SingleAlterationDetected := by
  intro p hok
  refine ⟨fun w hw => ?_, fun w hw => ?_, fun w => isCorrupted_with_checksum hok, fun m i hi hsame hdiff => ?_⟩
  · exact isCorrupted_of_checksum_ne hok rfl fun h => hw (add_right_cancel (add_right_cancel h))
  · exact isCorrupted_of_checksum_ne hok rfl fun h => hw (add_left_cancel (add_right_cancel h))
  · exact isCorrupted_of_checksum_ne hok rfl fun h => payloadSum_ne hi hsame hdiff (add_left_cancel h)

/-- Settles O10: the sum stays the same, or the field is rewritten to it. -/
theorem sumPreservingAlterationMissed : Obligations.SumPreservingAlterationMissed := by
  refine fun p hok => ⟨fun k => ?_, fun m hperm => ?_, isCorrupted_sealPacket⟩
  · rw [not_isCorrupted_iff] at hok ⊢
    simp only [checksum, add_add_sub_cancel] at hok ⊢
    exact hok
  · rw [not_isCorrupted_iff] at hok ⊢
    simp only [checksum, payloadSum_perm hperm] at hok ⊢
    exact hok

/-! ### The packets the block builds (R91, R92) -/

/-- Settles O8: a built packet is sealed, and the bus gives it back. -/
theorem builtPacketsPassValidation : Obligations.BuiltPacketsPassValidation := fun _ _ _ _ =>
  ⟨(congrArg isCorrupted (ofBus_toBus _)).trans (isCorrupted_sealPacket _),
    (congrArg isCorrupted (ofBus_toBus _)).trans (isCorrupted_sealPacket _)⟩

/-- A number of fewer than 31 bits is read back from its field. -/
theorem sint32_ofNat {n : Nat} (h : n < 2 ^ 31) : sint32 (BitVec.ofNat 32 n) = n := by
  rw [sint32, ← BitVec.ofInt_natCast]
  exact BitVec.toInt_ofInt_eq_self (by decide) (by omega) (by omega)

/-- A sum that stays within 32 signed bits is the sum of the numbers (R92). -/
theorem sint32_checksum {x y : Word} {m : Message} (hlo : -2 ^ 31 ≤ sint32 x + sint32 y + byteSum m)
    (hhi : sint32 x + sint32 y + byteSum m < 2 ^ 31) (w : Word) :
    sint32 (checksum ⟨x, y, w, m⟩) = sint32 x + sint32 y + byteSum m := by
  rw [checksum_eq_ofInt]
  exact BitVec.toInt_ofInt_eq_self (by decide) hlo hhi

/-- R92: the data packet's sum. -/
theorem sint32_dataPacket_checksum {c : Config} {n : Nat} (hsentinel : c.notInUse = -1) (hn : n < 2 ^ 29)
    (m : Message) : sint32 (dataPacket c n m).checksum = (n : Int) - 1 + byteSum m := by
  have hm := byteSum_bound m
  have hseq : sint32 (BitVec.ofNat 32 n) = n := sint32_ofNat (by omega)
  have hack : sint32 c.notInUse = -1 := by rw [hsentinel]; rfl
  calc sint32 (dataPacket c n m).checksum
      = sint32 (BitVec.ofNat 32 n) + sint32 c.notInUse + byteSum m := sint32_checksum (by omega) (by omega) 0
    _ = (n : Int) - 1 + byteSum m := by rw [hseq, hack]; rfl

/-- R92: the ACK's sum. -/
theorem sint32_ackPacket_checksum {p : Packet} {n : Nat} (hp : p.seqnum = BitVec.ofNat 32 n) (hn : n < 2 ^ 29)
    (c : Config) : sint32 (ackPacket c p).checksum = 2 * (n : Int) + byteSum c.ackFiller := by
  have hm := byteSum_bound c.ackFiller
  have hseq : sint32 p.seqnum = n := by rw [hp]; exact sint32_ofNat (by omega)
  calc sint32 (ackPacket c p).checksum
      = sint32 p.seqnum + sint32 p.seqnum + byteSum c.ackFiller := sint32_checksum (by omega) (by omega) 0
    _ = 2 * (n : Int) + byteSum c.ackFiller := by rw [hseq, two_mul]

/-- Settles O11: `n` is below `S ≤ 2^29` and the bytes sum to at most 5100. -/
theorem builtSumsStaySmall : Obligations.BuiltSumsStaySmall := by
  intro c hlegal n hn m p hp bytes
  obtain ⟨_, hbound, hspace⟩ := legal_iff.mp hlegal
  have hm : bytes m ≤ 5100 := byteSum_bound m
  have hfiller : bytes c.ackFiller ≤ 5100 := byteSum_bound c.ackFiller
  have hack : sint32 (ackPacket c p).checksum = 2 * (n : Int) + bytes c.ackFiller :=
    sint32_ackPacket_checksum hp (by omega) c
  refine ⟨fun hsentinel => ?_, hack, by omega, by omega⟩
  have hdata : sint32 (dataPacket c n m).checksum = (n : Int) - 1 + bytes m :=
    sint32_dataPacket_checksum hsentinel (by omega) m
  exact ⟨hdata, by omega, by omega⟩

/-! ### The shorthands (R86) -/

theorem dataOperand_eq (c : Config) (n : Nat) (m : Message) : dataOperand c n m = dataPacket c n m := by
  rw [dataOperand, BitVec.ofInt_natCast, dataPacket]

theorem ackOperand_eq (c : Config) (p : Packet) : ackOperand c (sint32 p.seqnum) = ackPacket c p := by
  rw [ackOperand, sint32, BitVec.ofInt_toInt, ackPacket]

/-- Flipping a bit of a word changes it. -/
theorem xor_one_ne (w : Word) : w ^^^ 1#32 ≠ w := fun h =>
  absurd (BitVec.xor_right_inj w |>.mp (h.trans BitVec.xor_zero.symm)) (by decide)

theorem corruptOperand_corruptOperand (p : Packet) : corruptOperand (corruptOperand p) = p := by
  simp [corruptOperand]

/-- Settles O12: an int in range is its field, and `corrupt` alters the checksum field alone. -/
theorem shorthandsAreTheBlocksPackets : Obligations.ShorthandsAreTheBlocksPackets := fun c p =>
  ⟨dataOperand_eq c, ackOperand_eq c p,
    fun hok => isCorrupted_with_checksum hok (xor_one_ne p.checksum), corruptOperand_corruptOperand p⟩

end Sys2Proof
end

section
/-! SUPPORT. On which part of the state a command depends, and which part it changes, said once for each entity
(10_state R20, 20_memory R56): the frames, the isolation of the entities and the order of their commands follow. -/

namespace Sys2Proof

open Sys2Proof.Machine Sys2Proof.Claims

/-- What a command of A makes of a state: the sender record, the status, fault bits raised, actions appended. -/
def afterSender (s : State) (a : Sender) (l : Status) (f : BitVec 2) (xs : List Action) : State :=
  { s with a := a, lastStatus := l, fault := s.fault ||| f, out := s.out ++ xs }

/-- What a command of B makes of a state: the receiver record, the status, actions appended. -/
def afterReceiver (s : State) (b : Receiver) (l : Status) (ys : List Action) : State :=
  { s with b := b, lastStatus := l, out := s.out ++ ys }

/-- The states a command of A cannot tell from `s`: the same parameters and sender record, and the same packets in the
slots a retransmission reads. -/
structure SenderAgrees (s s' : State) : Prop where
  cfg : s'.cfg = s.cfg
  a : s'.a = s.a
  sent : ∀ x ∈ s.resendSlots, s'.sentPacket x = s.sentPacket x

/-- The states a command of B cannot tell from `s`: the same parameters and receiver record, and the same packets in the
received slots. -/
structure ReceiverAgrees (s s' : State) : Prop where
  cfg : s'.cfg = s.cfg
  b : s'.b = s.b
  held : ∀ x, s.received x = true → s'.heldPacket x = s.heldPacket x

section Local

variable {i : Instr} {s s' t : State} {p : Packet}

theorem SenderAgrees.refl (s : State) : SenderAgrees s s := ⟨rfl, rfl, fun _ _ => rfl⟩

theorem ReceiverAgrees.refl (s : State) : ReceiverAgrees s s := ⟨rfl, rfl, fun _ _ => rfl⟩

/-! ### The sender's commands -/

theorem SenderAgrees.outstanding (h : SenderAgrees s s') : s'.outstanding = s.outstanding := by
  rw [State.outstanding, h.cfg, h.a]; rfl

theorem SenderAgrees.ackInRange (h : SenderAgrees s s') (v : Int) : s'.ackInRange v = s.ackInRange v := by
  rw [State.ackInRange, State.inOutstanding, h.outstanding, h.cfg, h.a]; rfl

theorem SenderAgrees.acked (h : SenderAgrees s s') (x : Nat) : s'.acked x = s.acked x := by
  rw [State.acked, h.a]; rfl

theorem SenderAgrees.resendSlots (h : SenderAgrees s s') : s'.resendSlots = s.resendSlots := by
  have hresends : s'.resends = s.resends := by
    funext j
    rw [State.resends, h.outstanding, h.cfg, h.a]; rfl
  rw [State.resendSlots, hresends, h.cfg, h.a]; rfl

/-- The actions of a retransmission, read off a state that agrees. -/
theorem SenderAgrees.resent (h : SenderAgrees s s') :
    (s'.resendSlots.map fun x => Action.aToChannel (s'.sentPacket x)) =
      s.resendSlots.map fun x => .aToChannel (s.sentPacket x) := by
  rw [h.resendSlots]
  exact List.map_congr_left fun x hx => by rw [h.sent x hx]

/-- The timer actions of a new ACK (R116), from the sender record the slide leaves. -/
def slideTimerActions (c : Config) (a : Sender) : List Action :=
  (if a.timer = .running then [.timerStop] else []) ++ if a.base = a.nextseqnum then [] else [.timerStart c.rtt]

theorem timerAfterSlide_out_eq (s : State) : s.timerAfterSlide.out = s.out ++ slideTimerActions s.cfg s.a := by
  rw [timerAfterSlide_out, List.append_assoc, slideTimerActions]

/-- Branch by branch: the tests of a command of A, its actions and the fault bits are the same where the states agree.
-/
theorem exec_of_senderAgrees (hi : i.entity = .a) (h : exec i s = .next t) :
    ∃ f xs, ∀ s', SenderAgrees s s' → exec i s' = .next (afterSender s' t.a t.lastStatus f xs) := by
  cases i with
  | aInit =>
    obtain rfl := exec_aInit_iff.mp h
    refine ⟨0, if s.a.timer = .running then [.timerStop] else [], fun s' hs => exec_aInit_iff.mpr ?_⟩
    apply State.ext <;> simp [afterSender, hs.a]
  | aSubmit m =>
    rcases exec_aSubmit_iff.mp h with ⟨hfull, rfl⟩ | ⟨hroom, rfl⟩
    · refine ⟨0, [], fun s' hs => exec_aSubmit_iff.mpr (.inl ⟨by rwa [hs.outstanding, hs.cfg], ?_⟩)⟩
      apply State.ext <;> simp [afterSender, hs.a]
    · refine ⟨0, .aToChannel (dataPacket s.cfg s.a.nextseqnum m) ::
        (if s.a.timer = .stopped then [.timerStart s.cfg.rtt] else []), fun s' hs =>
        exec_aSubmit_iff.mpr (.inr ⟨by rwa [hs.outstanding, hs.cfg], ?_⟩)⟩
      apply State.ext <;> simp [afterSender, hs.a, hs.cfg]
  | aAckIn p =>
    rcases exec_aAckIn_iff.mp h with ⟨hbad, rfl⟩ | ⟨hok, hout, rfl⟩ | ⟨hok, hin, hdup, rfl⟩ | ⟨hok, hin, hnew, rfl⟩
    · refine ⟨0, [], fun s' hs => exec_aAckIn_iff.mpr (.inl ⟨hbad, ?_⟩)⟩
      apply State.ext <;> simp [afterSender, hs.a]
    · refine ⟨0, [], fun s' hs => exec_aAckIn_iff.mpr (.inr (.inl ⟨hok, by rwa [hs.ackInRange], ?_⟩))⟩
      apply State.ext <;> simp [afterSender, hs.a]
    · refine ⟨0, [], fun s' hs => exec_aAckIn_iff.mpr
        (.inr (.inr (.inl ⟨hok, by rwa [hs.ackInRange], by rwa [hs.acked], ?_⟩)))⟩
      apply State.ext <;> simp [afterSender, hs.a]
    · refine ⟨0, slideTimerActions s.cfg (s.markAcked (seqIndex p.acknum)).slideBase.a, fun s' hs =>
        exec_aAckIn_iff.mpr (.inr (.inr (.inr ⟨hok, by rwa [hs.ackInRange], by rwa [hs.acked], ?_⟩)))⟩
      have hslid : (s'.markAcked (seqIndex p.acknum)).slideBase.a = (s.markAcked (seqIndex p.acknum)).slideBase.a := by
        simp [hs.a, hs.cfg]
      apply State.ext
      case a => simp only [afterSender, setStatus_a, timerAfterSlide_a, hslid]
      case out => rw [setStatus_out, timerAfterSlide_out_eq, hslid]; simp [afterSender, hs.cfg]
      all_goals simp [afterSender]
  | aTimeout =>
    rcases exec_aTimeout_iff.mp h with ⟨hstopped, rfl⟩ | ⟨hrunning, rfl⟩
    · refine ⟨FaultBit.spuriousTimeout.mask, [], fun s' hs => exec_aTimeout_iff.mpr (.inl ⟨by rwa [hs.a], ?_⟩)⟩
      apply State.ext <;> simp [afterSender, hs.a]
    · refine ⟨0, (s.resendSlots.map fun x => .aToChannel (s.sentPacket x)) ++ [.timerStart s.cfg.rtt], fun s' hs =>
        exec_aTimeout_iff.mpr (.inr ⟨by rwa [hs.a], ?_⟩)⟩
      apply State.ext
      case out => simp only [afterSender, setStatus_out, startTimer_out, retransmit_out, retransmit_cfg, hs.resent,
        hs.cfg, List.append_assoc]
      all_goals simp [afterSender, hs.a, hs.resendSlots]
  | bInit => cases hi
  | bPktIn p => cases hi

/-- A command of A does to every state that agrees with `s` what it does to `s`. -/
theorem exec_sender_local (hi : i.entity = .a) (h : exec i s = .next t) : ∃ a l f xs, t = afterSender s a l f xs ∧
    ∀ s', SenderAgrees s s' → exec i s' = .next (afterSender s' a l f xs) := by
  obtain ⟨f, xs, hall⟩ := exec_of_senderAgrees hi h
  exact ⟨t.a, t.lastStatus, f, xs, next_inj.mp (h.symm.trans (hall s (.refl s))), hall⟩

/-! ### The receiver's commands -/

/-- A delivery reads the payload at expectedseqnum, which is received, and clears its bit. -/
theorem ReceiverAgrees.deliverOne (h : ReceiverAgrees s s') : ReceiverAgrees s.deliverOne s'.deliverOne where
  cfg := h.cfg
  b := by rw [deliverOne_b, deliverOne_b, h.b, h.cfg]
  held x hx := by
    rw [State.received, deliverOne_b, bitGet_bitClear, Bool.and_eq_true_iff] at hx
    exact h.held x hx.1

/-- The drain does to every state that agrees with `s` what it does to `s`. -/
theorem drain_local (n : Nat) (s : State) :
    ∃ b ys, ∀ s', ReceiverAgrees s s' → drain n s' = afterReceiver s' b s'.lastStatus ys := by
  induction n generalizing s with
  | zero =>
    refine ⟨s.b, [], fun s' hs => ?_⟩
    apply State.ext <;> simp [drain, afterReceiver, hs.b]
  | succ n ih =>
    by_cases hbit : bitGet s.b.received s.b.expectedseqnum = true
    · obtain ⟨b, ys, hrest⟩ := ih s.deliverOne
      refine ⟨b, .bToApp (s.heldPacket s.b.expectedseqnum).payload :: ys, fun s' hs => ?_⟩
      rw [drain, hs.b, if_pos hbit, hrest _ hs.deliverOne]
      apply State.ext <;> simp [afterReceiver, hs.b, hs.held _ hbit]
    · refine ⟨s.b, [], fun s' hs => ?_⟩
      rw [drain, hs.b, if_neg hbit]
      apply State.ext <;> simp [afterReceiver, hs.b]

theorem ReceiverAgrees.arrivalStatus (h : ReceiverAgrees s s') (p : Packet) :
    s'.arrivalStatus p = s.arrivalStatus p := by
  rw [State.arrivalStatus, State.inRecvWindow, h.cfg, h.b]; rfl

theorem ReceiverAgrees.accepts (h : ReceiverAgrees s s') (p : Packet) : accepts s' p = accepts s p := by
  rw [Claims.accepts, State.inRecvWindow, State.received, h.cfg, h.b]; rfl

/-- Of the slots, the acceptance step changes the accepted packet's own alone. -/
theorem beforeDrain_heldPacket (x : Nat) : (beforeDrain s p).heldPacket x =
    if accepts s p = true ∧ x = seqIndex p.seqnum then p else s.heldPacket x := by
  simp only [State.heldPacket, slotRead, beforeDrain_slotLookup, beforeDrain_epoch]
  by_cases hslot : accepts s p = true ∧ x = seqIndex p.seqnum
  · simp only [if_pos hslot]
  · simp only [if_neg hslot]

/-- The acceptance step keeps the agreement: the slot it marks received holds the same packet in both states. -/
theorem ReceiverAgrees.beforeDrain (h : ReceiverAgrees s s') : ReceiverAgrees (beforeDrain s p) (beforeDrain s' p) where
  cfg := by simp [h.cfg]
  b := by
    unfold Sys2Proof.beforeDrain
    have hstatus : ∀ x y, (s'.emit x).arrivalStatus p = (s.emit y).arrivalStatus p := fun _ _ => h.arrivalStatus p
    rw [acceptPacket_b, acceptPacket_b, hstatus _ (.bToChannel (ackPacket s.cfg p))]
    simp [h.b]
  held x hx := by
    rw [beforeDrain_heldPacket, beforeDrain_heldPacket, h.accepts]
    by_cases hslot : Claims.accepts s p = true ∧ x = seqIndex p.seqnum
    · rw [if_pos hslot, if_pos hslot]
    · rw [if_neg hslot, if_neg hslot]
      rw [beforeDrain_received, Bool.or_eq_true_iff, Bool.and_eq_true_iff, decide_eq_true_iff] at hx
      exact h.held x (hx.resolve_right hslot)

/-- The two branches of R144, from `beforeDrain`. -/
theorem exec_bPktIn_cases (h : exec (.bPktIn p) s = .next t) :
    (isCorrupted p = true ∧ t = s.setStatus .pktCorrupt) ∨
    (isCorrupted p = false ∧ t = (beforeDrain s p).drainAll.setStatus (s.arrivalStatus p)) := exec_bPktIn_iff.mp h

/-- Branch by branch: the tests of a command of B and its actions are the same where the states agree. -/
theorem exec_of_receiverAgrees (hi : i.entity = .b) (h : exec i s = .next t) :
    ∃ ys, ∀ s', ReceiverAgrees s s' → exec i s' = .next (afterReceiver s' t.b t.lastStatus ys) := by
  cases i with
  | bInit =>
    obtain rfl := exec_bInit_iff.mp h
    refine ⟨[], fun s' hs => exec_bInit_iff.mpr ?_⟩
    apply State.ext <;> simp [afterReceiver, hs.b]
  | bPktIn p =>
    rcases exec_bPktIn_cases h with ⟨hbad, rfl⟩ | ⟨hok, rfl⟩
    · refine ⟨[], fun s' hs => exec_bPktIn_iff.mpr (.inl ⟨hbad, ?_⟩)⟩
      apply State.ext <;> simp [afterReceiver, hs.b]
    · obtain ⟨b, ys, hdrain⟩ := drain_local s.cfg.seqSpace (beforeDrain s p)
      have hall : ∀ s', ReceiverAgrees s s' → (beforeDrain s' p).drainAll =
          afterReceiver (beforeDrain s' p) b (beforeDrain s' p).lastStatus ys := by
        intro s' hs
        rw [State.drainAll, beforeDrain_cfg, hs.cfg, hdrain _ hs.beforeDrain]
      refine ⟨.bToChannel (ackPacket s.cfg p) :: ys, fun s' hs => ?_⟩
      rw [exec_bPktIn_uncorrupted hok, next_inj, hall s' hs, hs.arrivalStatus]
      have hb := congrArg State.b (hall s (.refl s))
      apply State.ext
      case b => exact hb.symm
      all_goals simp [afterReceiver, hs.cfg]
  | aInit => cases hi
  | aSubmit m => cases hi
  | aAckIn p => cases hi
  | aTimeout => cases hi

/-- A command of B does to every state that agrees with `s` what it does to `s`. -/
theorem exec_receiver_local (hi : i.entity = .b) (h : exec i s = .next t) : ∃ b l ys, t = afterReceiver s b l ys ∧
    ∀ s', ReceiverAgrees s s' → exec i s' = .next (afterReceiver s' b l ys) := by
  obtain ⟨ys, hall⟩ := exec_of_receiverAgrees hi h
  exact ⟨t.b, t.lastStatus, ys, next_inj.mp (h.symm.trans (hall s (.refl s))), hall⟩

/-! ### Frames -/

theorem exec_b_eq (hi : i.entity = .a) (h : exec i s = .next t) : t.b = s.b := by
  obtain ⟨_, _, _, _, rfl, _⟩ := exec_sender_local hi h
  rfl

theorem exec_a_eq (hi : i.entity = .b) (h : exec i s = .next t) : t.a = s.a := by
  obtain ⟨_, _, _, rfl, _⟩ := exec_receiver_local hi h
  rfl

/-- R12: a command's actions leave after those emitted before. -/
theorem exec_extends_out (h : exec i s = .next t) : s.out <+: t.out := by
  cases hi : i.entity with
  | a => obtain ⟨_, _, _, xs, rfl, _⟩ := exec_sender_local hi h; exact ⟨xs, rfl⟩
  | b => obtain ⟨_, _, ys, rfl, _⟩ := exec_receiver_local hi h; exact ⟨ys, rfl⟩

/-- No command reads or changes what the environment will drive. -/
theorem exec_with_env (h : exec i s = .next t) (e : List PortSample) :
    exec i { s with env := e } = .next { t with env := e } := by
  cases hi : i.entity with
  | a =>
    obtain ⟨_, _, _, _, rfl, hloc⟩ := exec_sender_local hi h
    exact hloc _ ⟨rfl, rfl, fun _ _ => rfl⟩
  | b =>
    obtain ⟨_, _, _, rfl, hloc⟩ := exec_receiver_local hi h
    exact hloc _ ⟨rfl, rfl, fun _ _ => rfl⟩

/-! ### Written slots (R29) -/

theorem slotRead_of_lookup {l : List (Nat × Packet)} {x : Nat} (o : Entity) (n : Nat) (h : slotLookup l x = some p) :
    slotRead o n l x = p := by rw [slotRead, h]

/-- A timeout resends outstanding slots alone (R122). -/
theorem inOutstanding_of_mem_resendSlots (hbase : s.a.base < s.cfg.seqSpace) (hnext : s.a.nextseqnum < s.cfg.seqSpace)
    {x : Nat} (hx : x ∈ s.resendSlots) : s.inOutstanding x = true := by
  obtain ⟨j, _, hj, rfl⟩ := mem_resendSlots.mp hx
  obtain ⟨_, hlt⟩ := resends_iff.mp hj
  exact (inOutstanding_ahead hbase (hlt.trans (seqDist_lt hbase hnext))).mpr hlt

/-- Where every outstanding slot is written a command of A sees no free contents. -/
theorem SenderAgrees.of_written (hshape : s.WellShaped) (hwritten : s.OutstandingWritten) (n : Nat) :
    SenderAgrees s { s with epoch := n } where
  cfg := rfl
  a := rfl
  sent x hx := by
    obtain ⟨_, ⟨hbase, hnext, _⟩, _⟩ := hshape
    obtain ⟨m, hm⟩ := hwritten x (inOutstanding_of_mem_resendSlots hbase hnext hx)
    exact (slotRead_of_lookup .a n hm).trans (slotRead_of_lookup .a s.epoch hm).symm

/-- Where every received slot is written a command of B sees no free contents. -/
theorem ReceiverAgrees.of_written (hwritten : s.ReceivedWritten) (n : Nat) :
    ReceiverAgrees s { s with epoch := n } where
  cfg := rfl
  b := rfl
  held x hx := by
    obtain ⟨q, hq, _⟩ := hwritten x hx
    exact (slotRead_of_lookup .b n hq).trans (slotRead_of_lookup .b s.epoch hq).symm

end Local

/-! ### The statements -/

/-- Settles O44: replacing the other record leaves a state that agrees. -/
theorem entitiesIsolated : Obligations.EntitiesIsolated := by
  refine fun i s t h => ⟨fun hi b => ?_, fun hi a => ?_⟩
  · obtain ⟨_, _, _, _, rfl, hloc⟩ := exec_sender_local hi h
    exact hloc _ ⟨rfl, rfl, fun _ _ => rfl⟩
  · obtain ⟨_, _, _, rfl, hloc⟩ := exec_receiver_local hi h
    exact hloc _ ⟨rfl, rfl, fun _ _ => rfl⟩

/-- Settles O45: the state after one command agrees, for the other, with the state before it. -/
theorem agentsCommute : Obligations.AgentsCommute := by
  intro i j s t u t' u' hi hj ht hu ht' hu'
  obtain ⟨a, l, f, xs, rfl, hsend⟩ := exec_sender_local hi ht
  obtain ⟨b, l', ys, rfl, hrecv⟩ := exec_receiver_local hj ht'
  obtain rfl := next_inj.mp (hu.symm.trans (hrecv _ ⟨rfl, rfl, fun _ _ => rfl⟩))
  obtain rfl := next_inj.mp (hu'.symm.trans (hsend _ ⟨rfl, rfl, fun _ _ => rfl⟩))
  exact ⟨rfl, rfl, rfl, rfl, rfl, rfl, rfl, xs, ys, rfl, rfl, rfl, rfl⟩

/-- Settles O46: the slots a command reads are the outstanding or the received ones, and those are written. -/
theorem unwrittenSlotsNeverSeen : Obligations.UnwrittenSlotsNeverSeen := by
  rintro i s t n hshape ⟨_, _, _, _, hsent⟩ ⟨_, _, hheld⟩ h
  cases hi : i.entity with
  | a =>
    obtain ⟨_, _, _, _, rfl, hloc⟩ := exec_sender_local hi h
    exact hloc _ (.of_written hshape hsent n)
  | b =>
    obtain ⟨_, _, _, rfl, hloc⟩ := exec_receiver_local hi h
    exact hloc _ (.of_written hheld n)

/-- Settles O43: the fields that no command of the entity changes, then R36 column by column. -/
theorem commandFrames : Obligations.CommandFrames := by
  intro i s t h
  obtain ⟨hcfg, henv, hheld, hepoch⟩ := exec_carries h
  refine ⟨hcfg, henv, hheld, hepoch, exec_extends_out h, ?_⟩
  cases i with
  | aInit =>
    obtain rfl := exec_aInit_iff.mp h
    exact ⟨rfl, rfl, fun _ => rfl⟩
  | aSubmit m =>
    rcases exec_aSubmit_iff.mp h with ⟨_, rfl⟩ | ⟨_, rfl⟩
    · exact ⟨rfl, rfl, rfl, rfl, rfl, fun _ _ => ⟨rfl, rfl⟩⟩
    · refine ⟨by simp, by simp, by simp, by simp, by simp, fun x hx => ⟨?_, ?_⟩⟩
      · simp [State.sentPacket, slotRead_slotWrite, hx]
      · simp [State.acked, bitGet_bitClear, hx]
  | aAckIn p =>
    rcases exec_aAckIn_iff.mp h with ⟨_, rfl⟩ | ⟨_, _, rfl⟩ | ⟨_, _, _, rfl⟩ | ⟨_, _, _, rfl⟩
    case inr.inr.inr => simp [State.sentPacket, slide_frame]
    all_goals exact ⟨rfl, rfl, rfl, rfl, rfl, fun _ => rfl⟩
  | aTimeout =>
    rcases exec_aTimeout_iff.mp h with ⟨_, rfl⟩ | ⟨hrunning, rfl⟩
    · exact ⟨rfl, rfl, rfl, rfl, rfl, rfl, rfl, by simp [FaultBit.mask], fun _ => rfl⟩
    · exact ⟨rfl, rfl, rfl, rfl, hrunning.symm, rfl, rfl, rfl, fun _ => rfl⟩
  | bInit =>
    obtain rfl := exec_bInit_iff.mp h
    exact ⟨rfl, rfl, rfl, fun _ => rfl⟩
  | bPktIn p =>
    refine ⟨exec_a_eq rfl h, exec_fault_eq (by simp) h, fun x hx => ?_⟩
    rcases exec_bPktIn_cases h with ⟨_, rfl⟩ | ⟨_, rfl⟩
    · rfl
    · have hslot : (beforeDrain s p).heldPacket x = s.heldPacket x := by
        rw [beforeDrain_heldPacket, if_neg fun hacc => hx hacc.2]
      rw [← hslot]
      simp [State.heldPacket, State.drainAll, drain_frame]

end Sys2Proof
end

section
/-! SUPPORT. The outstanding range and the receive window as runs of slots, and the proofs of the statements about them
(00_scope R13, 41_sender R109). -/

namespace Sys2Proof

open Sys2Proof.Machine Sys2Proof.Claims

section Ranges

variable {c : Config} {s : State}

theorem ahead_ahead (x i j : Nat) : ahead c (ahead c x i) j = ahead c x (i + j) := by
  simp only [ahead, Nat.mod_add_mod, Nat.add_assoc]

theorem ahead_add_one (x i : Nat) : ahead c x (i + 1) = inc c (ahead c x i) := by
  simp only [ahead, inc, Nat.mod_add_mod, Nat.add_assoc]

theorem outstanding_lt (hbase : s.a.base < s.cfg.seqSpace) (hnext : s.a.nextseqnum < s.cfg.seqSpace) :
    s.outstanding < s.cfg.seqSpace := seqDist_lt hbase hnext

/-- nextseqnum is `outstanding()` steps ahead of base. -/
theorem ahead_outstanding (hbase : s.a.base < s.cfg.seqSpace) (hnext : s.a.nextseqnum < s.cfg.seqSpace) :
    ahead s.cfg s.a.base s.outstanding = s.a.nextseqnum := ahead_seqDist hbase hnext

theorem outstanding_eq_zero_iff (hbase : s.a.base < s.cfg.seqSpace) (hnext : s.a.nextseqnum < s.cfg.seqSpace) :
    s.outstanding = 0 ↔ s.a.base = s.a.nextseqnum := by
  rw [State.outstanding, seqDist_eq hbase hnext]
  split <;> omega

/-- The outstanding range is the run of `outstanding()` slots from base. -/
theorem inOutstanding_iff_ahead (hbase : s.a.base < s.cfg.seqSpace) (hnext : s.a.nextseqnum < s.cfg.seqSpace)
    {x : Nat} : s.inOutstanding x = true ↔ ∃ j < s.outstanding, ahead s.cfg s.a.base j = x := by
  constructor
  · intro h
    obtain ⟨hx, hlt⟩ := inOutstanding_nat.mp h
    exact ⟨_, hlt, ahead_seqDist hbase hx⟩
  · rintro ⟨j, hj, rfl⟩
    exact (inOutstanding_ahead hbase (hj.trans (outstanding_lt hbase hnext))).mpr hj

/-- The receive window is the run of `W` slots from expectedseqnum. -/
theorem inRecvWindow_iff_ahead (hlegal : s.cfg.Legal) (hexp : s.b.expectedseqnum < s.cfg.seqSpace) {x : Nat} :
    s.inRecvWindow x = true ↔ ∃ j < s.cfg.windowSize, ahead s.cfg s.b.expectedseqnum j = x := by
  obtain ⟨hpos, _, hspace⟩ := legal_iff.mp hlegal
  constructor
  · intro h
    obtain ⟨hx, hlt⟩ := inRecvWindow_nat.mp h
    exact ⟨_, hlt, ahead_seqDist hexp hx⟩
  · rintro ⟨j, hj, rfl⟩
    exact (inRecvWindow_ahead hexp (by omega)).mpr hj

theorem outstanding_pos_of_inOutstanding {v : Int} (h : s.inOutstanding v = true) : 0 < s.outstanding := by
  obtain ⟨_, _, hlt⟩ := inOutstanding_iff.mp h
  exact Nat.zero_lt_of_lt hlt

theorem nonneg_of_inOutstanding {v : Int} (h : s.inOutstanding v = true) : 0 ≤ v := (inOutstanding_iff.mp h).1

theorem nonneg_of_inRecvWindow {v : Int} (h : s.inRecvWindow v = true) : 0 ≤ v :=
  (inSeqRange_iff.mp (Bool.and_eq_true_iff.mp h).1).1

end Ranges

/-- Settles O22: a number in either range is not negative, so it is a slot, and the slots are the two runs. -/
theorem rangesAreContiguous : Obligations.RangesAreContiguous := by
  rintro s v ⟨hlegal, ⟨hbase, hnext, hexp, _⟩, _⟩
  refine ⟨⟨fun h => ?_, ?_⟩, (ahead_outstanding hbase hnext).symm, ⟨fun h => ?_, ?_⟩⟩
  · lift v to Nat using nonneg_of_inOutstanding h
    obtain ⟨k, hk, hslot⟩ := (inOutstanding_iff_ahead hbase hnext).mp h
    exact ⟨k, hk, congrArg Nat.cast hslot.symm⟩
  · rintro ⟨k, hk, rfl⟩
    exact (inOutstanding_iff_ahead hbase hnext).mpr ⟨k, hk, rfl⟩
  · lift v to Nat using nonneg_of_inRecvWindow h
    obtain ⟨k, hk, hslot⟩ := (inRecvWindow_iff_ahead hlegal hexp).mp h
    exact ⟨k, hk, congrArg Nat.cast hslot.symm⟩
  · rintro ⟨k, hk, rfl⟩
    exact (inRecvWindow_iff_ahead hlegal hexp).mpr ⟨k, hk, rfl⟩

/-- R109: with room left in the window, a step of nextseqnum is one step further from base. -/
theorem outstanding_of_next {s t : State} (hshape : s.WellShaped) (hroom : s.outstanding < s.cfg.windowSize)
    (hcfg : t.cfg = s.cfg) (hbase : t.a.base = s.a.base) (hnext : t.a.nextseqnum = inc s.cfg s.a.nextseqnum) :
    t.outstanding = s.outstanding + 1 := by
  obtain ⟨hlegal, ⟨hb, hn, _⟩, _⟩ := hshape
  obtain ⟨hpos, _, hspace⟩ := legal_iff.mp hlegal
  rw [State.outstanding, hcfg, hbase, hnext, ← ahead_outstanding hb hn, ← ahead_add_one]
  exact seqDist_ahead hb (by omega)

/-- Settles O18: one more is outstanding, which is not none, so nextseqnum is not base. -/
theorem submitNeverReachesBase : Obligations.SubmitNeverReachesBase := by
  intro m s t hshape hroom h
  obtain ⟨_, rfl⟩ := (exec_aSubmit_iff.mp h).resolve_left fun hfull => absurd hfull.1 (not_le.mpr hroom)
  have hmore := outstanding_of_next hshape hroom (t := (s.sendNew m).startTimerIfStopped.advanceNext.setStatus .sent)
    (by simp) (by simp) (by simp)
  obtain ⟨_, ⟨hbase, hnext, _⟩, _⟩ := hshape
  refine ⟨hmore, by omega, by omega, fun heq => ?_⟩
  have hnone := (outstanding_eq_zero_iff (by simpa using hbase) (by simpa using inc_lt hnext)).mpr heq.symm
  omega

end Sys2Proof
end

section
/-! SUPPORT. From commands to steps: what a step keeps of the registers as they stand and as the command in progress
will leave them (70_reset R200), and the proof that the handshake is kept. -/

namespace Sys2Proof

open Sys2Proof.Machine Sys2Proof.Claims

section Step

variable {P : State → Prop} {s t : State}

/-! ### The registers once the command in progress is over -/

theorem settle_a (s : State) : s.settle.a = (s.held.map Update.a).getD s.a := by
  unfold State.settle State.writeHeld
  cases s.held <;> rfl

theorem settle_b (s : State) : s.settle.b = (s.held.map Update.b).getD s.b := by
  unfold State.settle State.writeHeld
  cases s.held <;> rfl

/-- `P` speaks of the parameters and the two records alone. -/
def ReadsRegisters (P : State → Prop) : Prop := ∀ s t : State, t.cfg = s.cfg → t.a = s.a → t.b = s.b → P s → P t

theorem throughout_of_held_none (hP : ReadsRegisters P) (hheld : t.held = none) (h : P t) : t.Throughout P :=
  ⟨h, hP t t.settle (settle_cfg t) (by rw [settle_a, hheld]; rfl) (by rw [settle_b, hheld]; rfl) h⟩

theorem throughout_congr (hP : ReadsRegisters P) (h : s.Throughout P) (hcfg : t.cfg = s.cfg) (ha : t.a = s.a)
    (hb : t.b = s.b) (hheld : t.held = s.held) : t.Throughout P :=
  ⟨hP s t hcfg ha hb h.1, hP s.settle t.settle (by simpa using hcfg) (by rw [settle_a, settle_a, ha, hheld])
    (by rw [settle_b, settle_b, hb, hheld]) h.2⟩

/-- The transfer of an action writes the held update, or changes no register. -/
theorem throughout_takeAction (hP : ReadsRegisters P) (h : s.Throughout P) : s.takeAction.Throughout P := by
  by_cases hlast : s.out.tail = []
  · rw [takeAction_last hlast]
    exact throughout_of_held_none hP (settle_held s) h.2
  · rw [takeAction_more hlast]
    exact throughout_congr hP h rfl rfl rfl rfl

/-- The acceptance of a command that leads to `t`: its registers come now, or with the last action. -/
theorem throughout_accept (hP : ReadsRegisters P) (hcfg : t.cfg = s.cfg) (hs : P s) (ht : P t) :
    (s.accept t).Throughout P := by
  by_cases hout : t.out = []
  · rw [accept_done hout]
    exact throughout_of_held_none hP rfl (hP t _ rfl rfl rfl ht)
  · rw [accept_busy hout]
    exact ⟨hP s _ rfl rfl rfl hs, hP t _ ((settle_cfg _).trans hcfg.symm) (settle_a _) (settle_b _) ht⟩

/-- What power-on establishes and every command keeps, every step keeps. -/
theorem step_keeps_throughout (hP : ReadsRegisters P) (hpower : ∀ s : State, s.cfg.Legal → P s → P s.powerOn)
    (hexec : ∀ (i : Instr) (s t : State), P s → exec i s = .next t → P t)
    (hs : s.Throughout P) (h : step s = .next t) : t.Throughout P := by
  obtain ⟨hlegal, ⟨_, _, rfl⟩ | ⟨e, rest, _, hcase⟩⟩ := step_cases h
  · exact hs
  have hread : ({ s with env := rest } : State).Throughout P := throughout_congr hP hs rfl rfl rfl rfl
  rcases hcase with rfl | ⟨_, rfl⟩ | ⟨_, rfl⟩ | ⟨_, i, u, hu, rfl⟩ | ⟨_, rfl⟩
  · exact hread
  · exact throughout_of_held_none hP rfl (hpower _ hlegal hread.1)
  · exact throughout_takeAction hP hread
  · exact throughout_accept hP (exec_carries hu).1 hread.1 (hexec i _ u hread.1 hu)
  · exact throughout_of_held_none hP rfl (hP s _ rfl rfl rfl hs.1)

/-! ### The handshake (R200) -/

theorem handshakeInv_accept (s t : State) : (s.accept t).HandshakeInv := by
  by_cases hout : t.out = []
  · simp [accept_done hout, State.HandshakeInv, hout]
  · simp [accept_busy hout, State.HandshakeInv, hout]

theorem handshakeInv_takeAction (h : s.HandshakeInv) (hbusy : s.out ≠ []) : s.takeAction.HandshakeInv := by
  by_cases hlast : s.out.tail = []
  · simp [takeAction_last hlast, State.HandshakeInv]
  · rw [takeAction_more hlast]
    exact iff_of_true (h.mpr hbusy) hlast

end Step

/-- Settles O56: an update is held from the acceptance of a command that emits until its last action is taken. -/
theorem stepKeepsHandshake : Obligations.StepKeepsHandshake := by
  intro s t hs h
  obtain ⟨_, ⟨_, _, rfl⟩ | ⟨e, rest, _, hcase⟩⟩ := step_cases h
  · exact hs
  rcases hcase with rfl | ⟨_, rfl⟩ | ⟨hbusy, rfl⟩ | ⟨_, i, u, _, rfl⟩ | ⟨hready, rfl⟩
  · exact hs
  · simp [State.HandshakeInv]
  · exact handshakeInv_takeAction hs hbusy
  · exact handshakeInv_accept _ u
  · simp [State.HandshakeInv, hready]

end Sys2Proof
end

section
/-! SUPPORT. Every command keeps the shape of the records (10_state R22 to R31), and the proof that every step does. -/

namespace Sys2Proof

open Sys2Proof.Machine Sys2Proof.Claims

/-- The sender's part of `State.WellShaped`. -/
structure SenderShaped (c : Config) (a : Sender) : Prop where
  base_lt : a.base < c.seqSpace
  next_lt : a.nextseqnum < c.seqSpace
  acked_lt : ∀ i ∈ a.acked, i < c.seqSpace
  buffer_lt : ∀ e ∈ a.buffer, e.1 < c.seqSpace
  acked_wf : bitsWf a.acked
  buffer_wf : slotsWf a.buffer

/-- The receiver's part of `State.WellShaped`. -/
structure ReceiverShaped (c : Config) (b : Receiver) : Prop where
  expected_lt : b.expectedseqnum < c.seqSpace
  received_lt : ∀ i ∈ b.received, i < c.seqSpace
  buffer_lt : ∀ e ∈ b.recvBuffer, e.1 < c.seqSpace
  received_wf : bitsWf b.received
  buffer_wf : slotsWf b.recvBuffer

section Shape

variable {c : Config} {i : Instr} {s t : State} {p : Packet}

theorem wellShaped_iff : s.WellShaped ↔ s.cfg.Legal ∧ SenderShaped s.cfg s.a ∧ ReceiverShaped s.cfg s.b := by
  constructor
  · rintro ⟨hl, ⟨hb, hn, he, ha, hr, hab, hrb⟩, hwa, hwr, hwab, hwrb⟩
    exact ⟨hl, ⟨hb, hn, ha, hab, hwa, hwab⟩, he, hr, hrb, hwr, hwrb⟩
  · rintro ⟨hl, ⟨hb, hn, ha, hab, hwa, hwab⟩, he, hr, hrb, hwr, hwrb⟩
    exact ⟨hl, ⟨hb, hn, he, ha, hr, hab, hrb⟩, hwa, hwr, hwab, hwrb⟩

theorem readsRegisters_wellShaped : ReadsRegisters State.WellShaped := by
  intro s t hcfg ha hb h
  rw [wellShaped_iff] at h ⊢
  rwa [hcfg, ha, hb]

theorem wellShaped_resetWith (hc : c.Legal) : (State.resetWith c).WellShaped := by
  have hpos : 0 < c.seqSpace := by have := legal_iff.mp hc; omega
  exact ⟨hc, ⟨hpos, hpos, hpos, nofun, nofun, nofun, nofun⟩, canonical_resetWith c⟩

theorem bitSet_lt {l : List Nat} {x n : Nat} (hx : x < n) (h : ∀ j ∈ l, j < n) : ∀ j ∈ bitSet l x, j < n := by
  intro j hj
  rcases mem_bitSet.mp hj with rfl | hj
  · exact hx
  · exact h j hj

theorem slotWrite_lt {l : List (Nat × Packet)} {x n : Nat} (hx : x < n) (h : ∀ e ∈ l, e.1 < n) :
    ∀ e ∈ slotWrite l x p, e.1 < n := by
  intro e he
  rcases mem_slotWrite he with rfl | he
  · exact hx
  · exact h e he

theorem bitsWf_clearRun {l : List Nat} (h : bitsWf l) (x k : Nat) : bitsWf (clearRun c x k l) := bitsWf_filter h _

/-- The slide keeps the shape: base stays a slot, and bits are only cleared. -/
theorem senderShaped_slide {a : Sender} (h : SenderShaped c a) : SenderShaped c (slide c c.seqSpace a) := by
  obtain ⟨k, _, hslide, _⟩ := slide_spec c c.seqSpace a h.base_lt le_rfl
  rw [hslide]
  exact { h with
    base_lt := ahead_lt h.base_lt
    acked_lt := fun j hj => h.acked_lt j (mem_clearRun hj)
    acked_wf := bitsWf_clearRun h.acked_wf _ _ }

/-- An ACK that passes the range test, in either mode, names a slot. -/
theorem inSeqRange_of_ackInRange {v : Int} (h : s.ackInRange v = true) : inSeqRange s.cfg v = true := by
  unfold State.ackInRange at h
  split at h
  · exact (Bool.and_eq_true_iff.mp h).1
  · exact h

theorem exec_keeps_senderShaped (hi : i.entity = .a) (h : exec i s = .next t) (hs : SenderShaped s.cfg s.a) :
    SenderShaped s.cfg t.a := by
  cases i with
  | aInit =>
    obtain rfl := exec_aInit_iff.mp h
    have hpos : 0 < s.cfg.seqSpace := Nat.zero_lt_of_lt hs.base_lt
    exact ⟨hpos, hpos, nofun, hs.buffer_lt, .nil, hs.buffer_wf⟩
  | aSubmit m =>
    rcases exec_aSubmit_iff.mp h with ⟨_, rfl⟩ | ⟨_, rfl⟩
    · exact { hs with }
    · simp only [setStatus_a, advanceNext_a, startTimerIfStopped_a, startTimerIfStopped_cfg, sendNew_a, sendNew_cfg]
      exact ⟨hs.base_lt, inc_lt hs.next_lt, fun j hj => hs.acked_lt j (mem_bitClear.mp hj).1,
        slotWrite_lt hs.next_lt hs.buffer_lt, bitsWf_bitClear hs.acked_wf _, slotsWf_slotWrite hs.buffer_wf _ _⟩
  | aAckIn p =>
    rcases exec_aAckIn_iff.mp h with ⟨_, rfl⟩ | ⟨_, _, rfl⟩ | ⟨_, _, _, rfl⟩ | ⟨_, hin, _, rfl⟩
    case inr.inr.inr =>
      have hslot : seqIndex p.acknum < s.cfg.seqSpace := seqIndex_lt (inSeqRange_of_ackInRange hin)
      have hmark : SenderShaped s.cfg (s.markAcked (seqIndex p.acknum)).a :=
        { hs with
          acked_lt := bitSet_lt hslot hs.acked_lt
          acked_wf := bitsWf_bitSet hs.acked_wf _ }
      rw [setStatus_a, timerAfterSlide_a]
      exact { senderShaped_slide hmark with }
    all_goals exact hs
  | aTimeout =>
    rcases exec_aTimeout_iff.mp h with ⟨_, rfl⟩ | ⟨_, rfl⟩
    · exact hs
    · exact { hs with }
  | bInit => cases hi
  | bPktIn p => cases hi

theorem receiverShaped_beforeDrain (hs : ReceiverShaped s.cfg s.b) : ReceiverShaped s.cfg (beforeDrain s p).b := by
  rw [beforeDrain, acceptPacket_b]
  split
  · rename_i hacc
    have hslot : seqIndex p.seqnum < s.cfg.seqSpace :=
      seqIndex_lt (accepts_inSeqRange (s := s) (arrivalStatus_accepts.mp hacc))
    exact { hs with
      received_lt := bitSet_lt hslot hs.received_lt
      buffer_lt := slotWrite_lt hslot hs.buffer_lt
      received_wf := bitsWf_bitSet hs.received_wf _
      buffer_wf := slotsWf_slotWrite hs.buffer_wf _ _ }
  · exact hs

/-- The drain keeps the shape: expectedseqnum stays a slot, and bits are only cleared. -/
theorem receiverShaped_drainAll (hs : ReceiverShaped s.cfg s.b) : ReceiverShaped s.cfg s.drainAll.b := by
  obtain ⟨k, _, hdrain, _⟩ := drain_spec s.cfg.seqSpace s hs.expected_lt le_rfl
  rw [State.drainAll, hdrain]
  exact { hs with
    expected_lt := ahead_lt hs.expected_lt
    received_lt := fun j hj => hs.received_lt j (mem_clearRun hj)
    received_wf := bitsWf_clearRun hs.received_wf _ _ }

theorem exec_keeps_receiverShaped (hi : i.entity = .b) (h : exec i s = .next t) (hs : ReceiverShaped s.cfg s.b) :
    ReceiverShaped s.cfg t.b := by
  cases i with
  | bInit =>
    obtain rfl := exec_bInit_iff.mp h
    exact ⟨Nat.zero_lt_of_lt hs.expected_lt, nofun, hs.buffer_lt, .nil, hs.buffer_wf⟩
  | bPktIn p =>
    rcases exec_bPktIn_cases h with ⟨_, rfl⟩ | ⟨_, rfl⟩
    · exact hs
    · have hdrained := receiverShaped_drainAll (s := beforeDrain s p)
      rw [beforeDrain_cfg] at hdrained
      exact hdrained (receiverShaped_beforeDrain hs)
  | aInit => cases hi
  | aSubmit m => cases hi
  | aAckIn p => cases hi
  | aTimeout => cases hi

theorem exec_keeps_wellShaped (hs : s.WellShaped) (h : exec i s = .next t) : t.WellShaped := by
  obtain ⟨hlegal, hsend, hrecv⟩ := wellShaped_iff.mp hs
  have hcfg := (exec_carries h).1
  rw [wellShaped_iff, hcfg]
  cases hi : i.entity with
  | a => exact ⟨hlegal, exec_keeps_senderShaped hi h hsend, exec_b_eq hi h ▸ hrecv⟩
  | b => exact ⟨hlegal, exec_a_eq hi h ▸ hsend, exec_keeps_receiverShaped hi h hrecv⟩

end Shape

/-- Settles O57: power-on establishes the shape and every command keeps it. -/
theorem stepKeepsShape : Obligations.StepKeepsShape :=
  fun _ _ hs h => step_keeps_throughout readsRegisters_wellShaped (fun _ hlegal _ => wellShaped_resetWith hlegal)
    (fun _ _ _ => exec_keeps_wellShaped) hs h

end Sys2Proof
end

section
/-! SUPPORT. With the window check every command keeps the sender invariants IA1 to IA4 (10_state R38) with R29, and the
proof that every step does. -/

namespace Sys2Proof

open Sys2Proof.Machine Sys2Proof.Claims

section SenderInvariants

variable {c : Config} {i : Instr} {s t : State} {p : Packet} {m : Message}

/-! ### The invariants speak of the parameters and the sender record alone -/

theorem senderInv_congr (hcfg : t.cfg = s.cfg) (ha : t.a = s.a) (h : s.SenderInv) : t.SenderInv := by
  obtain ⟨c, a, _, _, _, _, _, _, _⟩ := t
  obtain rfl : c = s.cfg := hcfg
  obtain rfl : a = s.a := ha
  exact h

/-- A counter apart, the sender records agree. -/
theorem senderInv_congr_fields (h : s.SenderInv) (hcfg : t.cfg = s.cfg) (hbase : t.a.base = s.a.base)
    (hnext : t.a.nextseqnum = s.a.nextseqnum) (hacked : t.a.acked = s.a.acked) (hbuffer : t.a.buffer = s.a.buffer)
    (htimer : t.a.timer = s.a.timer) : t.SenderInv := by
  obtain ⟨c, ⟨_, _, _, _, _, _, _, _⟩, _, _, _, _, _, _, _⟩ := t
  simp only at hcfg hbase hnext hacked hbuffer htimer
  subst hcfg hbase hnext hacked hbuffer htimer
  exact h

/-! ### An empty window -/

/-- With nothing outstanding, no bit set and the timer STOPPED the invariants hold. -/
theorem senderInv_of_empty (hzero : t.outstanding = 0) (hacked : t.a.acked = []) (htimer : t.a.timer = .stopped) :
    t.SenderInv := by
  have hnone : ∀ x : Nat, ¬t.inOutstanding x = true := fun x hx => by
    have := (inOutstanding_nat.mp hx).2
    omega
  refine ⟨by rw [State.WindowBounded, hzero]; exact Nat.zero_le _, fun x hx => ?_, ?_, fun hpos => by omega,
    fun x hx => absurd hx (hnone x)⟩
  · simp [State.acked, hacked, bitGet] at hx
  · rw [State.TimerTracksWindow, htimer, hzero]
    simp

theorem senderInv_aInit (h : exec .aInit s = .next t) : t.SenderInv := by
  obtain rfl := exec_aInit_iff.mp h
  refine senderInv_of_empty ?_ rfl rfl
  simp [State.outstanding, seqDist, Sender.clear]

/-! ### A sent packet -/

/-- The window of one packet more is that of before with nextseqnum. -/
theorem inOutstanding_of_next (hshape : s.WellShaped) (hroom : s.outstanding < s.cfg.windowSize) (hcfg : t.cfg = s.cfg)
    (hbase : t.a.base = s.a.base) (hnext : t.a.nextseqnum = inc s.cfg s.a.nextseqnum) {x : Nat} :
    t.inOutstanding x = true ↔ s.inOutstanding x = true ∨ x = s.a.nextseqnum := by
  have hmore := outstanding_of_next hshape hroom hcfg hbase hnext
  obtain ⟨_, ⟨hb, hn, _⟩, _⟩ := hshape
  have hn' : t.a.nextseqnum < t.cfg.seqSpace := by rw [hnext, hcfg]; exact inc_lt hn
  rw [inOutstanding_iff_ahead (by rwa [hbase, hcfg]) hn', inOutstanding_iff_ahead hb hn, hmore, hcfg, hbase]
  constructor
  · rintro ⟨j, hj, rfl⟩
    rcases Nat.lt_succ_iff_lt_or_eq.mp hj with hj | rfl
    · exact .inl ⟨j, hj, rfl⟩
    · exact .inr (ahead_outstanding hb hn)
  · rintro (⟨j, hj, rfl⟩ | rfl)
    · exact ⟨j, by omega, rfl⟩
    · exact ⟨s.outstanding, by omega, ahead_outstanding hb hn⟩

theorem senderInv_aSubmit (hshape : s.WellShaped) (hinv : s.SenderInv) (h : exec (.aSubmit m) s = .next t) :
    t.SenderInv := by
  rcases exec_aSubmit_iff.mp h with ⟨_, rfl⟩ | ⟨hroom, rfl⟩
  · exact senderInv_congr_fields hinv rfl rfl rfl rfl rfl rfl
  obtain ⟨hwindow, hacked, _, hunacked, hwritten⟩ := hinv
  generalize ht : (s.sendNew m).startTimerIfStopped.advanceNext.setStatus .sent = t
  have hcfg : t.cfg = s.cfg := by simp [← ht]
  have ha : t.a = { s.a with
      nextseqnum := inc s.cfg s.a.nextseqnum
      buffer := slotWrite s.a.buffer s.a.nextseqnum (dataPacket s.cfg s.a.nextseqnum m)
      acked := bitClear s.a.acked s.a.nextseqnum
      timer := .running } := by simp [← ht]
  have hbase : t.a.base = s.a.base := by rw [ha]
  have hnext : t.a.nextseqnum = inc s.cfg s.a.nextseqnum := by rw [ha]
  have hmore := outstanding_of_next hshape hroom hcfg hbase hnext
  have hrange (x : Nat) := inOutstanding_of_next hshape hroom hcfg hbase hnext (x := x)
  have hbit (x : Nat) : t.acked x = (s.acked x && decide (x ≠ s.a.nextseqnum)) := by
    rw [State.acked, ha]; exact bitGet_bitClear _ _ _
  refine ⟨?bounded, fun x hx => ?acked, ?timer, fun _ => ?base, fun x hx => ?written⟩
  case bounded => rw [State.WindowBounded, hmore, hcfg]; omega
  case acked =>
    rw [hbit, Bool.and_eq_true_iff] at hx
    exact (hrange x).mpr (.inl (hacked x hx.1))
  case timer => exact iff_of_true (by rw [ha]) (by omega)
  case base =>
    rw [hbase, hbit, Bool.and_eq_false_iff]
    by_cases hempty : s.outstanding = 0
    · obtain ⟨_, ⟨hb, hn, _⟩, _⟩ := hshape
      exact .inr (by simp [(outstanding_eq_zero_iff hb hn).mp hempty])
    · exact .inl (hunacked (Nat.pos_of_ne_zero hempty))
  case written =>
    rw [ha, slotLookup_slotWrite, hcfg]
    by_cases hslot : x = s.a.nextseqnum
    · exact ⟨m, by rw [if_pos hslot, hslot]⟩
    · rw [if_neg hslot]
      exact hwritten x (((hrange x).mp hx).resolve_right hslot)

/-! ### An acknowledgement -/

/-- Base moved on `k` outstanding slots: what is left of the window. -/
theorem inOutstanding_of_slide {k : Nat} (hshape : s.WellShaped) (hk : k ≤ s.outstanding) (hcfg : t.cfg = s.cfg)
    (hbase : t.a.base = ahead s.cfg s.a.base k) (hnext : t.a.nextseqnum = s.a.nextseqnum) {x : Nat} :
    t.inOutstanding x = true ↔ ∃ j, k ≤ j ∧ j < s.outstanding ∧ ahead s.cfg s.a.base j = x := by
  obtain ⟨_, ⟨hb, hn, _⟩, _⟩ := hshape
  have hleft : t.outstanding = s.outstanding - k := by
    rw [State.outstanding, hcfg, hbase, hnext]; exact seqDist_ahead_left hb hn hk
  rw [inOutstanding_iff_ahead (by rw [hbase, hcfg]; exact ahead_lt hb) (by rwa [hnext, hcfg]), hleft, hcfg, hbase]
  constructor
  · rintro ⟨j, hj, rfl⟩
    exact ⟨k + j, by omega, by omega, (ahead_ahead _ _ _).symm⟩
  · rintro ⟨j, hkj, hj, rfl⟩
    exact ⟨j - k, by omega, by rw [ahead_ahead, Nat.add_sub_cancel' hkj]⟩

/-- A new ACK: the slide ends at the first unacked slot, at or before nextseqnum. -/
theorem senderInv_newAck (hshape : s.WellShaped) (hcheck : s.cfg.ackWindowCheck = true) (hinv : s.SenderInv)
    (hok : isCorrupted p = false) (hin : s.inOutstanding (sint32 p.acknum) = true)
    (hnew : s.acked (seqIndex p.acknum) = false) (h : exec (.aAckIn p) s = .next t) : t.SenderInv := by
  obtain ⟨u, k, hu, hout, hk, hwindow, hleft, _⟩ := slideStopsAtNext p s hshape hcheck hinv hok hin hnew
  obtain rfl := next_inj.mp (h.symm.trans hu)
  obtain ⟨_, hacked, _, _, hwritten⟩ := hinv
  obtain ⟨_, hstop, hbase, hbits, _, _, htimer, hnext, hbuffer, _, _, _, _, hcfg, _⟩ := hout
  have hrange (x : Nat) := inOutstanding_of_slide hshape hk hcfg hbase hnext (x := x)
  obtain ⟨_, ⟨hb, hn, _⟩, _⟩ := hshape
  have hlt := outstanding_lt hb hn
  refine ⟨?bounded, fun x hx => ?acked, ?timer, fun hpos => ?base, fun x hx => ?written⟩
  case bounded => rw [State.WindowBounded, hleft, hcfg]; omega
  case acked =>
    rw [hbits, Bool.and_eq_true_iff, decide_eq_true_iff, Bool.or_eq_true_iff, decide_eq_true_iff] at hx
    obtain ⟨hbit, hpassed⟩ := hx
    have hxin : s.inOutstanding x = true := hbit.elim (fun heq => heq ▸ inOutstanding_seqIndex hin) (hacked x)
    obtain ⟨j, hj, hslot⟩ := (inOutstanding_iff_ahead hb hn).mp hxin
    exact (hrange x).mpr ⟨j, not_lt.mp fun hjk => hpassed j hjk hslot, hj, hslot⟩
  case timer =>
    have hzero := outstanding_eq_zero_iff (s := t) (by rw [hbase, hcfg]; exact ahead_lt hb) (by rwa [hnext, hcfg])
    rw [hnext] at hzero
    rw [State.TimerTracksWindow, Nat.pos_iff_ne_zero, ne_eq, hzero]
    split at htimer
    · rename_i hend
      exact iff_of_false (by simp [htimer.1]) (not_not.mpr hend)
    · rename_i hmore
      exact iff_of_true htimer.1 hmore
  case base =>
    have hclear := hstop.resolve_left (by omega)
    rw [hbits, hbase]
    exact Bool.and_eq_false_imp.mpr fun hset => absurd (hclear.symm.trans hset) Bool.false_ne_true
  case written =>
    obtain ⟨j, _, hj, hslot⟩ := (hrange x).mp hx
    rw [hbuffer, hcfg]
    exact hwritten x ((inOutstanding_iff_ahead hb hn).mpr ⟨j, hj, hslot⟩)

theorem senderInv_aAckIn (hshape : s.WellShaped) (hcheck : s.cfg.ackWindowCheck = true) (hinv : s.SenderInv)
    (h : exec (.aAckIn p) s = .next t) : t.SenderInv := by
  rcases exec_aAckIn_iff.mp h with ⟨_, rfl⟩ | ⟨_, _, rfl⟩ | ⟨_, _, _, rfl⟩ | ⟨hok, hin, hnew, _⟩
  case inr.inr.inr => exact senderInv_newAck hshape hcheck hinv hok (ackInRange_of_check hcheck _ ▸ hin) hnew h
  all_goals exact senderInv_congr rfl rfl hinv

/-! ### Every command -/

theorem senderInv_aTimeout (hinv : s.SenderInv) (h : exec .aTimeout s = .next t) : t.SenderInv := by
  rcases exec_aTimeout_iff.mp h with ⟨_, rfl⟩ | ⟨hrunning, rfl⟩
  · exact senderInv_congr rfl rfl hinv
  · exact senderInv_congr_fields hinv rfl rfl rfl rfl rfl hrunning.symm

theorem exec_keeps_senderInv (hshape : s.WellShaped) (hcheck : s.cfg.ackWindowCheck = true) (hinv : s.SenderInv)
    (h : exec i s = .next t) : t.SenderInv := by
  cases i with
  | aInit => exact senderInv_aInit h
  | aSubmit m => exact senderInv_aSubmit hshape hinv h
  | aAckIn p => exact senderInv_aAckIn hshape hcheck hinv h
  | aTimeout => exact senderInv_aTimeout hinv h
  | bInit => exact senderInv_congr (exec_carries h).1 (exec_a_eq rfl h) hinv
  | bPktIn p => exact senderInv_congr (exec_carries h).1 (exec_a_eq rfl h) hinv

theorem senderInv_resetWith (c : Config) : (State.resetWith c).SenderInv :=
  senderInv_of_empty (by simp [State.outstanding, seqDist, State.resetWith, Sender.powerOn]) rfl rfl

/-- A well-shaped state of the windowed mode that meets the sender invariants. -/
def SenderKept (s : State) : Prop := s.WellShaped ∧ s.cfg.ackWindowCheck = true ∧ s.SenderInv

theorem readsRegisters_senderKept : ReadsRegisters SenderKept := fun s t hcfg ha hb ⟨hshape, hcheck, hinv⟩ =>
  ⟨readsRegisters_wellShaped s t hcfg ha hb hshape, hcfg ▸ hcheck, senderInv_congr hcfg ha hinv⟩

end SenderInvariants

/-- Settles O58: power-on establishes the invariants, and every command keeps them, in a well-shaped state. -/
theorem stepKeepsSenderInvariants : Obligations.StepKeepsSenderInvariants := by
  rintro s t ⟨hshape, hshape'⟩ hcheck ⟨hinv, hinv'⟩ h
  have hkept : s.Throughout SenderKept := ⟨⟨hshape, hcheck, hinv⟩, hshape', by rwa [settle_cfg], hinv'⟩
  obtain ⟨⟨_, _, hnow⟩, _, _, hlater⟩ := step_keeps_throughout readsRegisters_senderKept
    (fun s hlegal ⟨_, hck, _⟩ => ⟨wellShaped_resetWith hlegal, hck, senderInv_resetWith s.cfg⟩)
    (fun _ _ _ ⟨hsh, hck, hin⟩ hexec => ⟨exec_keeps_wellShaped hsh hexec, (exec_carries hexec).1 ▸ hck,
      exec_keeps_senderInv hsh hck hin hexec⟩) hkept h
  exact ⟨hnow, hlater⟩

end Sys2Proof
end

section
/-! SUPPORT. Every command keeps the receiver invariants IB1 and IB2 (10_state R39) with R29, and the proofs that every
step does and that a second copy of a packet changes nothing (42_receiver R149). -/

namespace Sys2Proof

open Sys2Proof.Machine Sys2Proof.Claims

section ReceiverInvariants

variable {c : Config} {i : Instr} {s t : State} {p : Packet}

theorem receiverInv_congr (hcfg : t.cfg = s.cfg) (hb : t.b = s.b) (h : s.ReceiverInv) : t.ReceiverInv := by
  obtain ⟨c, _, b, _, _, _, _, _, _⟩ := t
  obtain rfl : c = s.cfg := hcfg
  obtain rfl : b = s.b := hb
  exact h

/-- With no bit set the invariants hold. -/
theorem receiverInv_of_empty (hreceived : t.b.received = []) : t.ReceiverInv := by
  have hnone : ∀ x, t.received x = false := fun x => by simp [State.received, hreceived, bitGet]
  exact ⟨fun x hx => absurd (hnone x) (by simp [hx]), hnone _, fun x hx => absurd (hnone x) (by simp [hx])⟩

/-- Expectedseqnum moved on `k` slots of the window: the rest of the old window lies in the new one. -/
theorem inRecvWindow_of_drain {k j : Nat} (hshape : s.WellShaped) (hcfg : t.cfg = s.cfg)
    (hexp : t.b.expectedseqnum = ahead s.cfg s.b.expectedseqnum k) (hkj : k ≤ j) (hj : j < s.cfg.windowSize) :
    t.inRecvWindow (ahead s.cfg s.b.expectedseqnum j) = true := by
  obtain ⟨hlegal, ⟨_, _, he, _⟩, _⟩ := hshape
  rw [inRecvWindow_iff_ahead (by rwa [hcfg]) (by rw [hexp, hcfg]; exact ahead_lt he), hcfg, hexp]
  exact ⟨j - k, by omega, by rw [ahead_ahead, Nat.add_sub_cancel' hkj]⟩

/-- An uncorrupted packet: the drain ends at the first slot not received, within the window; what is left received is
what was, with the packet itself if it was stored. -/
theorem receiverInv_arrival (hshape : s.WellShaped) (hinv : s.ReceiverInv) (hok : isCorrupted p = false)
    (h : exec (.bPktIn p) s = .next t) : t.ReceiverInv := by
  obtain ⟨u, k, hu, hout, hk, _⟩ := drainBoundedByWindow p s hshape hinv hok
  obtain rfl := next_inj.mp (h.symm.trans hu)
  obtain ⟨_, hstop⟩ := arrivalOutcome_run hout
  obtain ⟨hbuffer, _, _, hexp, hbits, _, _, _, _, _, hcfg, _⟩ := hout
  obtain ⟨hwindow, _, hwritten⟩ := hinv
  obtain ⟨hlegal, ⟨_, _, he, _⟩, _⟩ := id hshape
  have hspace := legal_iff.mp hlegal
  have hbit (x : Nat) : t.received x = true ↔
      (beforeDrain s p).received x = true ∧ ∀ j < k, ahead s.cfg s.b.expectedseqnum j ≠ x := by
    rw [hbits, Bool.and_eq_true_iff, decide_eq_true_iff, beforeDrain_received]
    rfl
  refine ⟨fun x hx => ?window, ?expected, fun x hx => ?written⟩
  case window =>
    obtain ⟨hset, hpassed⟩ := (hbit x).mp hx
    obtain ⟨j, hj, rfl⟩ := (inRecvWindow_iff_ahead hlegal he).mp (beforeDrain_inWindow hwindow hset)
    exact inRecvWindow_of_drain hshape hcfg hexp (not_lt.mp fun hjk => hpassed j hjk rfl) hj
  case expected =>
    have hclear := hstop.resolve_left (by omega)
    rw [State.ExpectedNotReceived, ← Bool.not_eq_true, hbit, hexp]
    exact fun hset => Bool.false_ne_true (hclear.symm.trans hset.1)
  case written =>
    obtain ⟨hset, _⟩ := (hbit x).mp hx
    rw [hbuffer]
    by_cases hslot : accepts s p = true ∧ x = seqIndex p.seqnum
    · exact ⟨p, if_pos hslot, by rw [hslot.2, seqIndex_cast (accepts_inSeqRange hslot.1)], hok⟩
    · rw [if_neg hslot]
      rw [beforeDrain_received, Bool.or_eq_true_iff, Bool.and_eq_true_iff, decide_eq_true_iff] at hset
      exact hwritten x (hset.resolve_right hslot)

theorem receiverInv_bPktIn (hshape : s.WellShaped) (hinv : s.ReceiverInv) (h : exec (.bPktIn p) s = .next t) :
    t.ReceiverInv := by
  rcases exec_bPktIn_cases h with ⟨_, rfl⟩ | ⟨hok, _⟩
  · exact receiverInv_congr rfl rfl hinv
  · exact receiverInv_arrival hshape hinv hok h

theorem exec_keeps_receiverInv (hshape : s.WellShaped) (hinv : s.ReceiverInv) (h : exec i s = .next t) :
    t.ReceiverInv := by
  cases i with
  | bInit => obtain rfl := exec_bInit_iff.mp h; exact receiverInv_of_empty rfl
  | bPktIn p => exact receiverInv_bPktIn hshape hinv h
  | aInit => exact receiverInv_congr (exec_carries h).1 (exec_b_eq rfl h) hinv
  | aSubmit m => exact receiverInv_congr (exec_carries h).1 (exec_b_eq rfl h) hinv
  | aAckIn p => exact receiverInv_congr (exec_carries h).1 (exec_b_eq rfl h) hinv
  | aTimeout => exact receiverInv_congr (exec_carries h).1 (exec_b_eq rfl h) hinv

/-- A well-shaped state that meets the receiver invariants. -/
def ReceiverKept (s : State) : Prop := s.WellShaped ∧ s.ReceiverInv

theorem readsRegisters_receiverKept : ReadsRegisters ReceiverKept := fun s t hcfg ha hb ⟨hshape, hinv⟩ =>
  ⟨readsRegisters_wellShaped s t hcfg ha hb hshape, receiverInv_congr hcfg hb hinv⟩

end ReceiverInvariants

/-- Settles O59: power-on establishes the invariants, and every command keeps them, in a well-shaped state. -/
theorem stepKeepsReceiverInvariants : Obligations.StepKeepsReceiverInvariants := by
  rintro s t ⟨hshape, hshape'⟩ ⟨hinv, hinv'⟩ h
  have hkept : s.Throughout ReceiverKept := ⟨⟨hshape, hinv⟩, hshape', hinv'⟩
  obtain ⟨⟨_, hnow⟩, _, hlater⟩ := step_keeps_throughout readsRegisters_receiverKept
    (fun s hlegal _ => ⟨wellShaped_resetWith hlegal, receiverInv_of_empty rfl⟩)
    (fun _ _ _ ⟨hsh, hin⟩ hexec => ⟨exec_keeps_wellShaped hsh hexec, exec_keeps_receiverInv hsh hin hexec⟩) hkept h
  exact ⟨hnow, hlater⟩

/-- Settles O15: nothing is outstanding, no bit is set, and no update is held. -/
theorem resetMeetsInvariants : Obligations.ResetMeetsInvariants := fun c hlegal =>
  ⟨wellShaped_resetWith hlegal, senderInv_resetWith c, receiverInv_of_empty rfl,
    by simp [State.HandshakeInv, State.resetWith], rfl⟩

/-! ### A second copy (R149) -/

section SecondCopy

variable {s t u : State} {p : Packet}

/-- A packet that is not accepted, under IB2, is acknowledged and changes nothing of B. -/
theorem exec_bPktIn_not_accepted (hexpected : s.ExpectedNotReceived) (hok : isCorrupted p = false)
    (hacc : accepts s p = false) : ∃ u, exec (.bPktIn p) s = .next u ∧ u.b = s.b ∧
      u.out = s.out ++ [.bToChannel (ackPacket s.cfg p)] ∧ u.lastStatus = s.arrivalStatus p := by
  have hstart : beforeDrain s p = s.emit (.bToChannel (ackPacket s.cfg p)) := by
    refine if_neg fun hstatus => ?_
    exact Bool.false_ne_true (hacc.symm.trans (arrivalStatus_accepts (s := s) (p := p) |>.mp hstatus))
  have hdrain : ∀ n, drain n (beforeDrain s p) = beforeDrain s p := by
    intro n
    cases n with
    | zero => rfl
    | succ n =>
      rw [drain, hstart, if_neg]
      exact fun hset => Bool.false_ne_true (hexpected.symm.trans hset)
  refine ⟨_, exec_bPktIn_uncorrupted hok, ?_, ?_, rfl⟩
  · rw [State.drainAll, hdrain, hstart]; rfl
  · rw [State.drainAll, hdrain, hstart]; rfl

/-- An uncorrupted packet with a seqnum in the window is received after the acceptance step, stored before or now. -/
theorem beforeDrain_received_seqIndex (hin : s.inRecvWindow (sint32 p.seqnum) = true) :
    (beforeDrain s p).received (seqIndex p.seqnum) = true := by
  rw [beforeDrain_received, accepts, hin]
  cases s.received (seqIndex p.seqnum) <;> simp

/-- After a packet, a copy of it is not accepted. Its slot in the window that the drain has left was in the window
before, so its bit was set, and the drain did not pass it: within `S = 2·W` slots no slot comes round again. -/
theorem not_accepts_after (hshape : s.WellShaped) (hinv : s.ReceiverInv) (hok : isCorrupted p = false)
    (h : exec (.bPktIn p) s = .next t) : accepts t p = false := by
  obtain ⟨u, k, hu, hout, hk, hdeliver⟩ := drainBoundedByWindow p s hshape hinv hok
  obtain rfl := next_inj.mp (h.symm.trans hu)
  obtain ⟨_, _, _, hexp, hbits, _, _, _, _, _, hcfg, _⟩ := hout
  obtain ⟨hlegal, ⟨_, _, he, _⟩, _⟩ := hshape
  obtain ⟨hpos, _, hspace⟩ := legal_iff.mp hlegal
  have hexp : t.b.expectedseqnum = ahead s.cfg s.b.expectedseqnum k := hexp
  by_contra hacc
  rw [Bool.not_eq_false] at hacc
  have hcast := seqIndex_cast (accepts_inSeqRange hacc)
  obtain ⟨hin, hunset⟩ := Bool.and_eq_true_iff.mp hacc
  rw [← hcast, inRecvWindow_iff_ahead (by rwa [hcfg]) (by rw [hexp, hcfg]; exact ahead_lt he), hcfg, hexp] at hin
  obtain ⟨j, hj, hslot⟩ := hin
  rw [ahead_ahead] at hslot
  have hbefore : s.inRecvWindow (sint32 p.seqnum) = true := by
    rw [← hcast, inRecvWindow_iff_ahead hlegal he]
    rcases Nat.eq_zero_or_pos k with rfl | hk0
    · exact ⟨j, hj, by rwa [Nat.zero_add] at hslot⟩
    · exact ⟨0, hpos, by rw [ahead_zero he]; exact_mod_cast (hdeliver.mp hk0).symm.trans hcast.symm⟩
  have hset := beforeDrain_received_seqIndex hbefore
  rw [beforeDrain_received] at hset
  have hpassed : ¬∀ i < k, ahead s.cfg s.b.expectedseqnum i ≠ seqIndex p.seqnum := fun hall => by
    rw [hbits, Bool.not_eq_true', Bool.and_eq_false_iff] at hunset
    rcases hunset with hclear | hclear
    · exact Bool.false_ne_true (hclear.symm.trans hset)
    · exact of_decide_eq_false hclear hall
  push Not at hpassed
  obtain ⟨i, hi, hsame⟩ := hpassed
  have := ahead_inj he (by omega) (by omega) (hsame.trans hslot.symm)
  omega

end SecondCopy

/-- Settles O34: the first copy leaves a state that does not accept the second, and IB2. -/
theorem secondCopyOnlyReacked : Obligations.SecondCopyOnlyReacked := by
  intro p s t hshape hinv hok h
  have hacc := not_accepts_after hshape hinv hok h
  obtain ⟨_, hexpected, _⟩ := receiverInv_arrival hshape hinv hok h
  obtain ⟨u, hu, hb, hout, hstatus⟩ := exec_bPktIn_not_accepted hexpected hok hacc
  refine ⟨u, hu, hb, (exec_carries h).1 ▸ hout, ?_⟩
  have hne : u.lastStatus ≠ .pktAccepted := fun heq =>
    Bool.false_ne_true (hacc.symm.trans (arrivalStatus_accepts.mp (hstatus ▸ heq)))
  rw [hstatus, arrivalStatus_eq] at hne ⊢
  split_ifs at hne ⊢
  · exact .inr rfl
  · exact .inl rfl
  · exact absurd rfl hne

/-- Settles O36: of the buffer, a command of B writes what the acceptance step writes. -/
theorem heldSlotNotOverwritten : Obligations.HeldSlotNotOverwritten := by
  intro i s t x h _ _
  cases i with
  | bPktIn p =>
    rcases exec_bPktIn_cases h with ⟨_, rfl⟩ | ⟨hok, rfl⟩
    · exact .inl rfl
    have hbuffer : slotLookup ((beforeDrain s p).drainAll.setStatus (s.arrivalStatus p)).b.recvBuffer x =
        slotLookup (beforeDrain s p).b.recvBuffer x := by simp [State.drainAll, drain_frame]
    rw [hbuffer, beforeDrain_slotLookup]
    split
    · rename_i hslot
      obtain ⟨hacc, rfl⟩ := hslot
      obtain ⟨_, hunset⟩ := Bool.and_eq_true_iff.mp hacc
      exact .inr ⟨p, rfl, hok, (seqIndex_cast (accepts_inSeqRange hacc)).symm, inRecvWindow_seqIndex hacc,
        by simpa using hunset, rfl⟩
    · exact .inl rfl
  | bInit => obtain rfl := exec_bInit_iff.mp h; exact .inl rfl
  | aInit => exact .inl (by rw [exec_b_eq rfl h])
  | aSubmit m => exact .inl (by rw [exec_b_eq rfl h])
  | aAckIn q => exact .inl (by rw [exec_b_eq rfl h])
  | aTimeout => exact .inl (by rw [exec_b_eq rfl h])

end Sys2Proof
end

section
/-! SUPPORT. The proofs of the statements about what the sender's commands do under the invariants and in literal mode
(41_sender R112 to R125, 20_memory R64). -/

namespace Sys2Proof

open Sys2Proof.Machine Sys2Proof.Claims

/-- Settles O19: the first row of R163 at either entity. -/
theorem corruptionDiscarded : Obligations.CorruptionDiscarded := fun _ _ hne =>
  ⟨exec_aAckIn_iff.mpr (.inl ⟨isCorrupted_iff.mpr hne, rfl⟩), exec_bPktIn_iff.mpr (.inl ⟨isCorrupted_iff.mpr hne, rfl⟩)⟩

/-! ### The range test (R113, R118) -/

theorem ackInRange_of_literal {s : State} (hliteral : s.cfg.ackWindowCheck = false) (v : Int) :
    s.ackInRange v = inSeqRange s.cfg v := if_neg (by simp [hliteral])

/-- Settles O25: in literal mode the second row of R163 tests the sequence range. -/
theorem literalModeRangeTest : Obligations.LiteralModeRangeTest := by
  intro p s hliteral hok hout
  have hrange : s.ackInRange (sint32 p.acknum) = false := by
    rw [ackInRange_of_literal hliteral, ← Bool.not_eq_true, inSeqRange_iff]
    exact hout
  exact exec_aAckIn_iff.mpr (.inr (.inl ⟨hok, hrange, rfl⟩))

/-- Settles O23: the two range tests of the premise are `ackInRange`. -/
theorem newAckEffect : Obligations.NewAckEffect := by
  rintro p s ⟨_, ⟨hbase, _⟩, _⟩ hok hrange hnew
  refine exec_aAckIn_new hbase hok ?_ hnew
  split at hrange
  · rename_i hcheck
    exact (ackInRange_of_check hcheck _).trans hrange
  · rename_i hliteral
    rw [ackInRange_of_literal (by simpa using hliteral)]
    exact inSeqRange_iff.mpr hrange

/-! ### Literal mode can break the window (R118) -/

/-- The default block in literal mode, after power-on. -/
def literalReset : State := State.resetWith { Config.default with ackWindowCheck := false }

/-- `literalReset` after `ack(0)`: the slide has passed slot 0, and base is one slot past nextseqnum. -/
def literalOverrun : State := { literalReset with
  a := { Sender.powerOn with base := 1, timer := .running, cntNewAcks := 1 }
  out := [.timerStart Config.openRtt]
  lastStatus := .ackNew }

theorem exec_ack_literalReset :
    exec (.aAckIn (ackOperand literalReset.cfg 0)) literalReset = .next literalOverrun := by
  refine exec_aAckIn_iff.mpr (.inr (.inr (.inr ⟨by decide, by decide, by decide, ?_⟩)))
  rfl

/-- Settles O26: an ACK for the base slot of an empty window leaves `(0 - 1) mod 12 = 11` outstanding. -/
theorem literalModeBreaksInvariant : Obligations.LiteralModeBreaksInvariant := by
  obtain ⟨hbounded, _⟩ := senderInv_resetWith literalReset.cfg
  have hoverrun : literalOverrun.cfg.windowSize < literalOverrun.outstanding := by decide
  exact ⟨literalReset, literalOverrun, _, wellShaped_resetWith (by decide), rfl, hbounded, exec_ack_literalReset,
    not_le.mpr hoverrun, fun m => ⟨_, exec_aSubmit_iff.mpr (.inl ⟨hoverrun.le, rfl⟩), rfl⟩⟩

/-! ### A_TIMEOUT under the invariants (R125, R64) -/

section Timeout

variable {s : State}

/-- The scan resends the base slot first: it is outstanding and unacked (IA4). -/
theorem resendSlots_eq_cons (hshape : s.WellShaped) (hpos : 0 < s.outstanding) (hunacked : s.BaseUnacked) :
    ∃ xs, s.resendSlots = s.a.base :: xs := by
  obtain ⟨hlegal, ⟨hbase, _⟩, _⟩ := hshape
  obtain ⟨n, hn⟩ := Nat.exists_eq_add_of_le' (legal_iff.mp hlegal).1
  have hfirst : s.resends 0 = true := resends_iff.mpr ⟨by rw [ahead_zero hbase]; exact hunacked hpos, hpos⟩
  refine ⟨(((List.range n).map Nat.succ).filter s.resends).map (ahead s.cfg s.a.base), ?_⟩
  rw [State.resendSlots, hn, List.range_succ_eq_map, List.filter_cons_of_pos hfirst, List.map_cons, ahead_zero hbase]

/-- The scan resends offsets below `outstanding()`, each at most once. -/
theorem length_resendSlots_le (s : State) : s.resendSlots.length ≤ s.outstanding := by
  have hsub : (List.range s.cfg.windowSize).filter s.resends ⊆ List.range s.outstanding := fun j hj => by
    obtain ⟨_, hresends⟩ := List.mem_filter.mp hj
    obtain ⟨_, hlt⟩ := resends_iff.mp hresends
    exact List.mem_range.mpr hlt
  rw [State.resendSlots, List.length_map]
  calc ((List.range s.cfg.windowSize).filter s.resends).length
      ≤ (List.range s.outstanding).length :=
        (List.subperm_of_subset (List.nodup_range.filter _) hsub).length_le
    _ = s.outstanding := List.length_range

end Timeout

/-- Settles O28: the timer runs, so the window is not empty (IA3), and the scan begins with its base slot. -/
theorem timeoutResendsSome : Obligations.TimeoutResendsSome := by
  rintro s hshape ⟨hwindow, _, htimer, hunacked, _⟩ hrunning
  obtain ⟨xs, hslots⟩ := resendSlots_eq_cons hshape (htimer.mp hrunning) hunacked
  have hlength := length_resendSlots_le s
  rw [hslots, List.length_cons] at hlength
  refine ⟨_, xs.map s.sentPacket, exec_aTimeout_iff.mpr (.inr ⟨hrunning, rfl⟩), ?_, by simpa using hlength, hwindow, ?_⟩
  · simp [hslots]
  · simp [hslots]

/-- Settles O29: what A_TIMEOUT adds is the scan's packets, read from outstanding slots, which are written (R29). -/
theorem resentPacketsAreOriginals : Obligations.ResentPacketsAreOriginals := by
  rintro s t q ⟨_, ⟨hbase, hnext, _⟩, _⟩ ⟨_, _, _, _, hwritten⟩ h hmem hold
  rcases exec_aTimeout_iff.mp h with ⟨_, rfl⟩ | ⟨_, rfl⟩
  · exact absurd hmem hold
  simp only [setStatus_out, startTimer_out, retransmit_out, List.mem_append, hold, false_or, List.mem_map,
    List.mem_singleton, reduceCtorEq, or_false, Action.aToChannel.injEq] at hmem
  obtain ⟨x, hx, rfl⟩ := hmem
  have hout := inOutstanding_of_mem_resendSlots hbase hnext hx
  obtain ⟨m, hm⟩ := hwritten x hout
  have hread : s.sentPacket x = dataPacket s.cfg x m := slotRead_of_lookup .a s.epoch hm
  exact ⟨x, m, hout, by rw [hread, hm], hread⟩

/-- Settles O30: R36 column by column; a sent packet is read back from the slot nextseqnum names. -/
theorem sentSlotWrittenOnlyBySubmit : Obligations.SentSlotWrittenOnlyBySubmit := by
  intro i s t x h
  cases i with
  | aInit => obtain rfl := exec_aInit_iff.mp h; exact .inl rfl
  | aSubmit m =>
    rcases exec_aSubmit_iff.mp h with ⟨_, rfl⟩ | ⟨hroom, rfl⟩
    · exact .inl rfl
    by_cases hslot : x = s.a.nextseqnum
    · exact .inr ⟨m, rfl, hslot, hroom, by simp [slotLookup_slotWrite, hslot], by simp [hslot]⟩
    · exact .inl (by simp [slotLookup_slotWrite, hslot])
  | aAckIn p =>
    rcases exec_aAckIn_iff.mp h with ⟨_, rfl⟩ | ⟨_, _, rfl⟩ | ⟨_, _, _, rfl⟩ | ⟨_, _, _, rfl⟩
    case inr.inr.inr => exact .inl (by simp [slide_frame])
    all_goals exact .inl rfl
  | aTimeout => rcases exec_aTimeout_iff.mp h with ⟨_, rfl⟩ | ⟨_, rfl⟩ <;> exact .inl rfl
  | bInit => exact .inl (by rw [exec_a_eq rfl h])
  | bPktIn p => exact .inl (by rw [exec_a_eq rfl h])

end Sys2Proof
end

section
/-! SUPPORT. The actions of each command, said once, and the proofs of the statements about the actions and the timer
(41_sender R100, 30_encoding R81, 60_exceptions R176). -/

namespace Sys2Proof

open Sys2Proof.Machine Sys2Proof.Claims

/-- TIMER_STOP, if the timer runs (R116). -/
def stopActions (s : State) : List Action := if s.a.timer = .running then [.timerStop] else []

/-- The actions `acts` of a command that leads from `s` to `t`, and the timer it leaves. -/
def CommandActions (i : Instr) (s t : State) (acts : List Action) : Prop :=
  match i with
  | .aInit => t.a.timer = .stopped ∧ acts = stopActions s
  | .aSubmit m =>
    if s.outstanding < s.cfg.windowSize then
      t.a.timer = .running ∧ acts = .aToChannel (dataPacket s.cfg s.a.nextseqnum m) ::
        if s.a.timer = .stopped then [.timerStart s.cfg.rtt] else []
    else t.a.timer = s.a.timer ∧ acts = []
  | .aAckIn p =>
    if t.lastStatus = .ackNew then
      s.ackInRange (sint32 p.acknum) = true ∧
      if t.a.base = t.a.nextseqnum then t.a.timer = .stopped ∧ acts = stopActions s
      else t.a.timer = .running ∧ acts = stopActions s ++ [.timerStart s.cfg.rtt]
    else t.a.timer = s.a.timer ∧ acts = []
  | .aTimeout =>
    t.a.timer = s.a.timer ∧
    if s.a.timer = .running then acts = (resentPackets s).map .aToChannel ++ [.timerStart s.cfg.rtt]
    else acts = [] ∧ t.lastStatus = .faultSpuriousTimeout
  | .bInit => t.a.timer = s.a.timer ∧ acts = []
  | .bPktIn p => t.a.timer = s.a.timer ∧
      (acts = [] ∨ ∃ ms : List Message, acts = .bToChannel (ackPacket s.cfg p) :: ms.map .bToApp)

section Actions

variable {i : Instr} {s t : State}

theorem exec_actions (h : exec i s = .next t) : ∃ acts, t.out = s.out ++ acts ∧ CommandActions i s t acts := by
  cases i with
  | aInit =>
    obtain rfl := exec_aInit_iff.mp h
    exact ⟨_, rfl, rfl, rfl⟩
  | aSubmit m =>
    rcases exec_aSubmit_iff.mp h with ⟨hfull, rfl⟩ | ⟨hroom, rfl⟩
    · refine ⟨[], by simp, ?_⟩
      rw [CommandActions, if_neg (not_lt.mpr hfull)]
      exact ⟨rfl, rfl⟩
    · refine ⟨_, (startTimerIfStopped_out (s.sendNew m)).trans (List.append_assoc _ [_] _), ?_⟩
      rw [CommandActions, if_pos hroom]
      exact ⟨by simp, rfl⟩
  | aAckIn p =>
    rcases exec_aAckIn_iff.mp h with ⟨_, rfl⟩ | ⟨_, _, rfl⟩ | ⟨_, _, _, rfl⟩ | ⟨_, hin, _, rfl⟩
    case inr.inr.inr =>
      generalize ht : (s.markAcked (seqIndex p.acknum)).slideBase = u
      have htimer : u.a.timer = s.a.timer := by simp [← ht, slide_frame]
      have hcfg : u.cfg = s.cfg := by simp [← ht]
      have hout : u.out = s.out := by simp [← ht]
      refine ⟨slideTimerActions s.cfg u.a, ?_, ?_⟩
      · rw [setStatus_out, timerAfterSlide_out_eq, hout, hcfg]
      · rw [CommandActions, if_pos (setStatus_lastStatus _ _)]
        refine ⟨hin, ?_⟩
        simp only [setStatus_a, timerAfterSlide_a, slideTimerActions, stopActions, htimer]
        split <;> simp
    all_goals exact ⟨[], by simp, by simp [CommandActions]⟩
  | aTimeout =>
    rcases exec_aTimeout_iff.mp h with ⟨hstopped, rfl⟩ | ⟨hrunning, rfl⟩
    · exact ⟨[], by simp, by simp [CommandActions, hstopped, FaultBit.status]⟩
    · exact ⟨_, List.append_assoc _ _ _, by simp [CommandActions, hrunning, resentPackets_eq, Function.comp_def]⟩
  | bInit =>
    obtain rfl := exec_bInit_iff.mp h
    exact ⟨[], by simp, rfl, rfl⟩
  | bPktIn p =>
    rcases exec_bPktIn_cases h with ⟨_, rfl⟩ | ⟨_, rfl⟩
    · exact ⟨[], by simp, rfl, .inl rfl⟩
    · obtain ⟨_, _, _, _, _, _, _, _, ms, hout⟩ := drain_frame (beforeDrain s p).cfg.seqSpace (beforeDrain s p)
      refine ⟨.bToChannel (ackPacket s.cfg p) :: ms.map .bToApp, ?_, by rw [exec_a_eq rfl h], .inr ⟨ms, rfl⟩⟩
      rw [setStatus_out, State.drainAll, hout, beforeDrain_out, List.append_assoc, List.singleton_append]

end Actions

/-! ### The timer actions among them (R175) -/

section Timer

variable {s : State}

@[simp] theorem timerActions_nil : timerActions [] = [] := rfl

@[simp] theorem timerActions_append (xs ys : List Action) :
    timerActions (xs ++ ys) = timerActions xs ++ timerActions ys := List.filter_append xs ys

@[simp] theorem timerActions_aToChannel (p : Packet) (l : List Action) :
    timerActions (.aToChannel p :: l) = timerActions l := rfl

@[simp] theorem timerActions_bToChannel (p : Packet) (l : List Action) :
    timerActions (.bToChannel p :: l) = timerActions l := rfl

@[simp] theorem timerActions_timerStart (d : Word) (l : List Action) :
    timerActions (.timerStart d :: l) = .timerStart d :: timerActions l := rfl

@[simp] theorem timerActions_timerStop (l : List Action) :
    timerActions (.timerStop :: l) = .timerStop :: timerActions l := rfl

@[simp] theorem timerActions_map_aToChannel (ps : List Packet) : timerActions (ps.map .aToChannel) = [] := by
  induction ps with
  | nil => rfl
  | cons p ps ih => exact ih

@[simp] theorem timerActions_map_bToApp (ms : List Message) : timerActions (ms.map .bToApp) = [] := by
  induction ms with
  | nil => rfl
  | cons m ms ih => exact ih

@[simp] theorem timerActions_stopActions (s : State) : timerActions (stopActions s) = stopActions s := by
  unfold stopActions
  split <;> rfl

@[simp] theorem timerAfter_nil (t : TimerState) : timerAfter t [] = some t := by cases t <;> rfl

@[simp] theorem timerAfter_aToChannel (t : TimerState) (p : Packet) (l : List Action) :
    timerAfter t (.aToChannel p :: l) = timerAfter t l := by cases t <;> rfl

@[simp] theorem timerAfter_bToChannel (t : TimerState) (p : Packet) (l : List Action) :
    timerAfter t (.bToChannel p :: l) = timerAfter t l := by cases t <;> rfl

@[simp] theorem timerAfter_map_aToChannel (t : TimerState) (ps : List Packet) (l : List Action) :
    timerAfter t (ps.map .aToChannel ++ l) = timerAfter t l := by
  induction ps with
  | nil => rfl
  | cons p ps ih => cases t <;> exact ih

@[simp] theorem timerAfter_map_bToApp (t : TimerState) (ms : List Message) :
    timerAfter t (ms.map .bToApp) = some t := by
  induction ms with
  | nil => exact timerAfter_nil t
  | cons m ms ih => cases t <;> exact ih

/-- After TIMER_STOP where it runs, the timer is stopped. -/
theorem timerAfter_stopActions (s : State) (l : List Action) :
    timerAfter s.a.timer (stopActions s ++ l) = timerAfter .stopped l := by
  unfold stopActions
  cases s.a.timer <;> rfl

end Timer

/-- Settles O40: the rows of R100; a new ACK is in the outstanding range, so the timer runs (IA3). -/
theorem timerTransitionTable : Obligations.TimerTransitionTable := by
  rintro i s t _ hcheck ⟨_, _, htimer, _, _⟩ h
  obtain ⟨acts, hout, hacts⟩ := exec_actions h
  refine ⟨acts, hout, ?_⟩
  cases i with
  | aInit =>
    obtain ⟨hstopped, rfl⟩ := hacts
    exact ⟨hstopped, timerActions_stopActions s⟩
  | aSubmit m =>
    simp only [CommandActions] at hacts ⊢
    split_ifs at hacts ⊢ <;> obtain ⟨htimer, rfl⟩ := hacts <;> exact ⟨htimer, rfl⟩
  | aAckIn p =>
    simp only [CommandActions] at hacts ⊢
    split at hacts
    · rename_i hnew
      obtain ⟨hin, hacts⟩ := hacts
      rw [ackInRange_of_check hcheck] at hin
      have hrunning : s.a.timer = .running := htimer.mpr (outstanding_pos_of_inOutstanding hin)
      have hstop : stopActions s = [.timerStop] := if_pos hrunning
      rw [hstop] at hacts
      rw [if_pos hnew]
      refine ⟨hrunning, ?_⟩
      split_ifs at hacts ⊢ <;> obtain ⟨htimer, rfl⟩ := hacts <;> exact ⟨htimer, rfl⟩
    · rename_i hnew
      obtain ⟨hsame, rfl⟩ := hacts
      rw [if_neg hnew]
      exact ⟨hsame, rfl⟩
  | aTimeout =>
    obtain ⟨hsame, hacts⟩ := hacts
    refine ⟨hsame, ?_⟩
    split_ifs at hacts ⊢
    · subst hacts
      simp
    · obtain ⟨rfl, hfault⟩ := hacts
      exact ⟨rfl, hfault⟩
  | bInit =>
    obtain ⟨hsame, rfl⟩ := hacts
    exact ⟨hsame, rfl⟩
  | bPktIn p =>
    obtain ⟨hsame, rfl | ⟨ms, rfl⟩⟩ := hacts
    · exact ⟨hsame, rfl⟩
    · exact ⟨hsame, by simp⟩

/-- Settles O41: a stop comes first and only where the timer runs, a start only after that or where it is stopped. -/
theorem stopBeforeStart : Obligations.StopBeforeStart := by
  intro i s t h
  obtain ⟨acts, hout, hacts⟩ := exec_actions h
  refine ⟨acts, hout, ?_⟩
  have hstop : timerAfter s.a.timer (stopActions s) = some .stopped := by
    rw [← List.append_nil (stopActions s)]
    exact timerAfter_stopActions s []
  cases i with
  | aInit =>
    obtain ⟨hstopped, rfl⟩ := hacts
    rw [hstopped, timerBefore, hstop]
  | aSubmit m =>
    simp only [CommandActions] at hacts
    split at hacts <;> obtain ⟨htimer, rfl⟩ := hacts <;> rw [htimer, timerBefore]
    · rw [timerAfter_aToChannel]
      cases s.a.timer <;> rfl
    · exact timerAfter_nil _
  | aAckIn p =>
    simp only [CommandActions] at hacts
    split at hacts
    · obtain ⟨_, hacts⟩ := hacts
      split at hacts <;> obtain ⟨htimer, rfl⟩ := hacts <;> rw [htimer, timerBefore]
      · exact hstop
      · exact timerAfter_stopActions s _
    · obtain ⟨hsame, rfl⟩ := hacts
      rw [hsame, timerBefore, timerAfter_nil]
  | aTimeout =>
    obtain ⟨hsame, hacts⟩ := hacts
    rw [hsame, timerBefore]
    split at hacts
    · rename_i hrunning
      rw [hacts, hrunning, timerAfter_map_aToChannel]
      rfl
    · rename_i hstopped
      obtain ⟨rfl, _⟩ := hacts
      cases hs : s.a.timer
      · rfl
      · exact absurd hs hstopped
  | bInit =>
    obtain ⟨hsame, rfl⟩ := hacts
    rw [hsame, timerBefore, timerAfter_nil]
  | bPktIn p =>
    obtain ⟨hsame, rfl | ⟨ms, rfl⟩⟩ := hacts <;> rw [hsame, timerBefore]
    · exact timerAfter_nil _
    · rw [timerAfter_bToChannel, timerAfter_map_bToApp]

/-! ### The kinds of actions (R81) -/

/-- An action to the channel from A, or to the timer. -/
def SenderKind (x : Action) : Prop := x.tag = 0b000 ∨ x.tag = 0b011 ∨ x.tag = 0b100

/-- An action to the channel from B, or to the application. -/
def ReceiverKind (x : Action) : Prop := x.tag = 0b001 ∨ x.tag = 0b010

section Kinds

variable {i : Instr} {s t : State} {acts : List Action}

theorem senderKind_of_mem_stopActions {x : Action} (hx : x ∈ stopActions s) : SenderKind x := by
  unfold stopActions at hx
  split at hx
  · rw [List.mem_singleton.mp hx]; exact .inr (.inr rfl)
  · cases hx

theorem senderKind_of_mem (hi : i.entity = .a) (h : CommandActions i s t acts) : ∀ x ∈ acts, SenderKind x := by
  cases i with
  | aInit =>
    obtain ⟨_, rfl⟩ := h
    exact fun _ => senderKind_of_mem_stopActions
  | aSubmit m =>
    simp only [CommandActions] at h
    split_ifs at h <;> obtain ⟨_, rfl⟩ := h <;> simp [SenderKind, Action.tag]
  | aAckIn p =>
    simp only [CommandActions] at h
    split_ifs at h
    · obtain ⟨_, _, rfl⟩ := h
      exact fun _ => senderKind_of_mem_stopActions
    · obtain ⟨_, _, rfl⟩ := h
      refine List.forall_mem_append.mpr ⟨fun _ => senderKind_of_mem_stopActions, ?_⟩
      simp [SenderKind, Action.tag]
    · obtain ⟨_, rfl⟩ := h
      exact nofun
  | aTimeout =>
    obtain ⟨_, h⟩ := h
    split_ifs at h
    · subst h
      refine List.forall_mem_append.mpr ⟨?_, ?_⟩ <;> simp [SenderKind, Action.tag]
    · obtain ⟨rfl, _⟩ := h
      exact nofun
  | bInit => cases hi
  | bPktIn p => cases hi

theorem receiverKind_of_mem (hi : i.entity = .b) (h : CommandActions i s t acts) : ∀ x ∈ acts, ReceiverKind x := by
  cases i with
  | bInit =>
    obtain ⟨_, rfl⟩ := h
    exact nofun
  | bPktIn p =>
    obtain ⟨_, rfl | ⟨ms, rfl⟩⟩ := h
    · exact nofun
    · simp [ReceiverKind, Action.tag]
  | aInit => cases hi
  | aSubmit m => cases hi
  | aAckIn p => cases hi
  | aTimeout => cases hi

end Kinds

/-- Settles O42: the actions of `exec_actions`, by entity. -/
theorem actionKindsByEntity : Obligations.ActionKindsByEntity := by
  intro i s t h
  obtain ⟨acts, hout, hacts⟩ := exec_actions h
  exact ⟨acts, hout, fun x hx =>
    ⟨fun hi => senderKind_of_mem hi hacts x hx, fun hi => receiverKind_of_mem hi hacts x hx⟩⟩

end Sys2Proof
end

section
/-! SUPPORT. One equation for each thing a step does on a sample (70_reset R190 to R206), and the proofs of the
statements about reset, the ports and the handshake. -/

namespace Sys2Proof

open Sys2Proof.Machine Sys2Proof.Claims

section Samples

variable {s t : State} {e : PortSample} {rest : List PortSample} {i : Instr} {c : Command}

/-! ### A step reads one sample -/

theorem step_sample (hlegal : s.cfg.Legal) (henv : s.env = e :: rest) :
    step s = applySample e { s with env := rest } := by
  unfold step clockPorts
  rw [if_pos hlegal, henv]

/-- R191: nothing is driven any more, and no action is pending. -/
theorem step_wait (hlegal : s.cfg.Legal) (henv : s.env = []) (hout : s.out = []) : step s = .next s := by
  unfold step clockPorts
  rw [if_pos hlegal, henv]
  exact if_pos (List.isEmpty_iff.mpr hout)

/-- R206: nothing is driven any more, and an action is pending. -/
theorem step_stalled (hlegal : s.cfg.Legal) (henv : s.env = []) (hout : s.out ≠ []) :
    step s = .fault .outputStalled := by
  unfold step clockPorts
  rw [if_pos hlegal, henv]
  exact if_neg fun h => hout (List.isEmpty_iff.mp h)

/-- R8: what is none of this block is refused. -/
theorem step_illegal (hillegal : ¬s.cfg.Legal) : step s = .refused .illegalConfiguration := by
  unfold step clockPorts
  exact if_neg hillegal

theorem cmdReady_iff : s.cmdReady = true ↔ s.out = [] := List.isEmpty_iff

theorem cmdReady_false_iff : s.cmdReady = false ↔ s.out ≠ [] := by rw [← Bool.not_eq_true, cmdReady_iff]

/-! ### What a sample does -/

/-- R190. -/
theorem applySample_rst (hrst : e.rst = true) : applySample e s = .next s.powerOn := if_pos hrst

/-- R200, R201: a command is in progress. -/
theorem applySample_busy (hrst : e.rst = false) (hbusy : s.out ≠ []) :
    applySample e s = .next (if e.outReady then s.takeAction else s) := by
  unfold applySample
  rw [if_neg (by simp [hrst]), if_pos (cmdReady_false_iff.mpr hbusy)]

/-- R70: the block is ready. -/
theorem applySample_ready (hrst : e.rst = false) (hready : s.out = []) :
    applySample e s = if e.cmdValid then acceptCommand e.cmd s else .next s := by
  unfold applySample
  rw [if_neg (by simp [hrst]), if_neg (by simp [cmdReady_iff.mpr hready])]

/-- R15: a command of R71 is accepted with its whole effect. -/
theorem acceptCommand_command (hc : decode c = .command i) (h : exec i s = .next t) :
    acceptCommand c s = .next (s.accept t) := by
  unfold acceptCommand
  rw [runCommand_command hc, h]

/-- R165: a reserved code is accepted with its fault, and emits nothing. -/
theorem acceptCommand_reserved (hc : c.op ∈ reservedCodes) (hready : s.out = []) :
    acceptCommand c s = .next { s.raiseFault .reservedOp with held := none } := by
  unfold acceptCommand
  rw [runCommand_reserved hc]
  exact congrArg Host.Outcome.next (accept_done hready)

theorem acceptCommand_next (c : Command) (s : State) : ∃ t, acceptCommand c s = .next t := by
  obtain ⟨t, ht, _⟩ := everyCommandCompletes.2 c s
  exact ⟨s.accept t, by unfold acceptCommand; rw [ht]⟩

/-- R160: no sample stops the block. -/
theorem applySample_next (e : PortSample) (s : State) : ∃ t, applySample e s = .next t := by
  cases hrst : e.rst with
  | true => exact ⟨_, applySample_rst hrst⟩
  | false =>
    by_cases hout : s.out = []
    · rw [applySample_ready hrst hout]
      split
      · exact acceptCommand_next e.cmd s
      · exact ⟨s, rfl⟩
    · exact ⟨_, applySample_busy hrst hout⟩

theorem step_busy (hlegal : s.cfg.Legal) (henv : s.env = e :: rest) (hrst : e.rst = false) (hbusy : s.out ≠ []) :
    step s = .next (if e.outReady then ({ s with env := rest } : State).takeAction else { s with env := rest }) :=
  (step_sample hlegal henv).trans (applySample_busy hrst hbusy)

theorem step_ready (hlegal : s.cfg.Legal) (henv : s.env = e :: rest) (hrst : e.rst = false) (hready : s.out = []) :
    step s = if e.cmdValid then acceptCommand e.cmd { s with env := rest } else .next { s with env := rest } :=
  (step_sample hlegal henv).trans (applySample_ready hrst hready)

/-- A ready block offered a command of R71 accepts it. -/
theorem step_accepts (hlegal : s.cfg.Legal) (henv : s.env = e :: rest) (hrst : e.rst = false) (hready : s.out = [])
    (hvalid : e.cmdValid = true) (hc : decode e.cmd = .command i) (h : exec i { s with env := rest } = .next t) :
    step s = .next (({ s with env := rest } : State).accept t) := by
  rw [step_ready hlegal henv hrst hready, if_pos hvalid, acceptCommand_command hc h]

/-- A ready block offered a reserved code raises the fault. -/
theorem step_reserved (hlegal : s.cfg.Legal) (henv : s.env = e :: rest) (hrst : e.rst = false) (hready : s.out = [])
    (hvalid : e.cmdValid = true) (hc : e.cmd.op ∈ reservedCodes) :
    step s = .next { s with env := rest, fault := s.fault ||| 0b01, lastStatus := .faultReservedOp, held := none } := by
  rw [step_ready hlegal henv hrst hready, if_pos hvalid]
  exact acceptCommand_reserved hc hready

/-- A busy block hands over its oldest action; another is left, and the update stays held. -/
theorem step_takes_more (hlegal : s.cfg.Legal) (henv : s.env = e :: rest) (hrst : e.rst = false)
    (htake : e.outReady = true) (hmore : s.out.tail ≠ []) :
    step s = .next { s with env := rest, out := s.out.tail } := by
  have hbusy : s.out ≠ [] := fun h => hmore (by rw [h]; rfl)
  rw [step_busy hlegal henv hrst hbusy, if_pos htake]
  exact congrArg Host.Outcome.next (takeAction_more hmore)

/-- A busy block hands over its last action, and the update is written. -/
theorem step_takes_last (hlegal : s.cfg.Legal) (henv : s.env = e :: rest) (hrst : e.rst = false) (hbusy : s.out ≠ [])
    (htake : e.outReady = true) (hlast : s.out.tail = []) : step s = .next ({ s with env := rest } : State).settle := by
  rw [step_busy hlegal henv hrst hbusy, if_pos htake]
  exact congrArg Host.Outcome.next (takeAction_last hlast)

end Samples

/-! ### Reset -/

/-- Settles O13: the step is the power-on reset of R190, whatever else the sample holds. -/
theorem powerOnReset : Obligations.PowerOnReset := by
  intro s e rest hlegal henv hrst
  refine ⟨_, (step_sample hlegal henv).trans (applySample_rst hrst), rfl, rfl, fun _ => rfl, rfl, rfl, rfl, rfl, rfl,
    fun _ => rfl, rfl, rfl, rfl, rfl, rfl, rfl, fun _ => rfl, fun _ => rfl, rfl, rfl⟩

/-- Settles O14: the defaults of R7 and the outputs of one fixed state, by evaluation. -/
theorem defaultResetState : Obligations.DefaultResetState := by
  unfold Obligations.DefaultResetState
  decide

/-! ### One step at the ports -/

/-- Settles O47: the accepted command's update is written at once, or held with its actions offered. -/
theorem stepRunsDecodedCommand : Obligations.StepRunsDecodedCommand := by
  intro s e rest hlegal henv hrst hready hvalid
  rw [cmdReady_iff] at hready
  refine ⟨fun i hc => ?_, fun w hc => ?_⟩
  · obtain ⟨t, ht⟩ := exec_next i { s with env := rest }
    have hstep := step_accepts hlegal henv hrst hready hvalid hc ht
    exact ⟨t, ht, fun hsilent => by rw [hstep, accept_done hsilent], fun hemits => by rw [hstep, accept_busy hemits]⟩
  · by_cases hres : e.cmd.op ∈ reservedCodes
    · exact step_reserved hlegal henv hrst hready hvalid hres
    · obtain ⟨i, hi⟩ := exists_decode_command hres
      cases hi.symm.trans hc

/-- R80: what each action shows. -/
theorem portsShow (x : Action) : PortsShow x := by cases x <;> exact ⟨rfl, rfl, rfl, rfl⟩

/-- Settles O49: the block holds its oldest action, or hands it over, and writes the held update with the last. -/
theorem busyBlockOnlyTransfers : Obligations.BusyBlockOnlyTransfers := by
  intro s e rest x l u hlegal henv hrst hout hheld
  have hbusy : s.out ≠ [] := by simp [hout]
  have hready : s.cmdReady = false := cmdReady_false_iff.mpr hbusy
  refine ⟨hready, by simp [State.outValid, hout], by simp [State.readout, hready], by simp [State.offered, hout],
    portsShow x, fun hwait => ?_, fun htake hmore => ?_, fun htake hlast => ?_⟩
  · rw [step_busy hlegal henv hrst hbusy, hwait]
    rfl
  · rw [step_takes_more hlegal henv hrst htake (by simpa [hout] using hmore), hout]
    rfl
  · rw [step_takes_last hlegal henv hrst hbusy htake (by simpa [hout] using hlast), State.settle]
    exact congrArg Host.Outcome.next (writeHeld_some hheld)

/-- Settles O50: without a command offered the sample is consumed, and nothing else happens. -/
theorem idleBlockWaits : Obligations.IdleBlockWaits := by
  intro s hlegal hout
  have hready : s.cmdReady = true := cmdReady_iff.mpr hout
  refine ⟨hready, by simp [State.outValid, hout], ⟨_, if_pos hready, rfl, rfl, rfl, rfl, rfl, rfl⟩,
    fun henv => step_wait hlegal henv hout, fun e rest henv hrst hidle => ?_⟩
  rw [step_ready hlegal henv hrst hout, hidle]
  rfl

/-! ### What stops a step -/

/-- Settles O52: a sample always leads on; without one a step stops exactly while an action waits. -/
theorem onlyBackPressureStops : Obligations.OnlyBackPressureStops := by
  refine fun s hlegal => ⟨fun h => ?_, step_stalled hlegal⟩
  cases henv : s.env with
  | nil => exact ⟨s, step_wait hlegal henv (h.resolve_left (not_not.mpr henv))⟩
  | cons e rest =>
    rw [step_sample hlegal henv]
    exact applySample_next e _

/-- Settles O53: a legal configuration is never refused. -/
theorem illegalConfigurationRefused : Obligations.IllegalConfigurationRefused := by
  intro s
  rw [← legal_iff]
  refine ⟨fun h hlegal => ?_, step_illegal⟩
  by_cases hgo : s.env ≠ [] ∨ s.out = []
  · obtain ⟨t, ht⟩ := (onlyBackPressureStops s hlegal).1 hgo
    cases ht.symm.trans h
  · push Not at hgo
    obtain ⟨henv, hout⟩ := hgo
    cases (step_stalled hlegal henv hout).symm.trans h

/-! ### What every step keeps -/

section Steps

variable {s t : State}

theorem accept_cfg (h : t.cfg = s.cfg) : (s.accept t).cfg = s.cfg := by
  unfold State.accept
  split
  · exact h
  · rfl

/-- Settles O54: no way a step can go writes the parameters. -/
theorem configurationFixed : Obligations.ConfigurationFixed := by
  intro s t h
  obtain ⟨_, ⟨_, _, rfl⟩ | ⟨e, rest, _, hcase⟩⟩ := step_cases h
  · rfl
  rcases hcase with rfl | ⟨_, rfl⟩ | ⟨_, rfl⟩ | ⟨_, i, u, hu, rfl⟩ | ⟨_, rfl⟩
  · rfl
  · rfl
  · exact takeAction_cfg _
  · exact accept_cfg (exec_carries hu).1
  · rfl

/-- Raising bits clears none. -/
theorem and_or_self_left (x m : BitVec 2) : x &&& (x ||| m) = x := by revert x m; decide

/-- A command clears no fault bit (R168). -/
theorem exec_keeps_faults {i : Instr} (h : exec i s = .next t) : s.fault &&& t.fault = s.fault := by
  rcases noOtherConditionFaults i s t h with ⟨_, _, hf⟩ | ⟨_, hf⟩
  · rw [hf, and_or_self_left]
  · rw [hf, BitVec.and_self]

theorem accept_keeps_faults (h : s.fault &&& t.fault = s.fault) : s.fault &&& (s.accept t).fault = s.fault := by
  unfold State.accept
  split
  · exact h
  · exact BitVec.and_self

/-- Settles O39: of what a step can do, only `rst` clears a bit. -/
theorem faultBitsAreSticky : Obligations.FaultBitsAreSticky := by
  intro s t h hrst
  obtain ⟨_, ⟨_, _, rfl⟩ | ⟨e, rest, henv, hcase⟩⟩ := step_cases h
  · exact BitVec.and_self
  rcases hcase with rfl | ⟨hasserted, rfl⟩ | ⟨_, rfl⟩ | ⟨_, i, u, hu, rfl⟩ | ⟨_, rfl⟩
  · exact BitVec.and_self
  · exact absurd hasserted (by simp [hrst e rest henv])
  · rw [takeAction_fault]
    exact BitVec.and_self
  · exact accept_keeps_faults (exec_keeps_faults hu)
  · exact and_or_self_left _ _

end Steps

end Sys2Proof
end

section
/-! SUPPORT. Runs of several steps, and the proofs of the statements about them (70_reset R200, R205; 60_exceptions
R167). -/

namespace Sys2Proof

open Sys2Proof.Machine Sys2Proof.Claims

section Runs

variable {s t u : State} {e : PortSample}

/-! ### What the environment drives later (R205) -/

/-- The state with other samples to come. -/
def withEnv (s : State) (l : List PortSample) : State := { s with env := l }

theorem takeAction_withEnv (s : State) (l : List PortSample) : (withEnv s l).takeAction = withEnv s.takeAction l := by
  unfold State.takeAction State.writeHeld withEnv
  split
  · cases s.held <;> rfl
  · rfl

theorem accept_withEnv (s t : State) (l : List PortSample) :
    (withEnv s l).accept (withEnv t l) = withEnv (s.accept t) l := by
  unfold State.accept withEnv
  split <;> rfl

theorem acceptCommand_withEnv {c : Command} (hready : s.out = []) (h : acceptCommand c s = .next t)
    (l : List PortSample) : acceptCommand c (withEnv s l) = .next (withEnv t l) := by
  by_cases hres : c.op ∈ reservedCodes
  · obtain rfl := next_inj.mp ((acceptCommand_reserved hres hready).symm.trans h)
    exact acceptCommand_reserved hres hready
  · obtain ⟨i, hi⟩ := exists_decode_command hres
    obtain ⟨u, hu⟩ := exec_next i s
    obtain rfl := next_inj.mp ((acceptCommand_command hi hu).symm.trans h)
    rw [← accept_withEnv]
    exact acceptCommand_command hi (exec_with_env hu l)

theorem applySample_withEnv (h : applySample e s = .next t) (l : List PortSample) :
    applySample e (withEnv s l) = .next (withEnv t l) := by
  cases hrst : e.rst with
  | true =>
    obtain rfl := next_inj.mp ((applySample_rst hrst).symm.trans h)
    exact applySample_rst hrst
  | false =>
    by_cases hout : s.out = []
    · rw [applySample_ready hrst hout] at h
      rw [applySample_ready (s := withEnv s l) hrst hout]
      split_ifs at h ⊢
      · exact acceptCommand_withEnv hout h l
      · rw [next_inj.mp h]
    · obtain rfl := next_inj.mp ((applySample_busy hrst hout).symm.trans h)
      rw [applySample_busy (s := withEnv s l) hrst hout, takeAction_withEnv]
      split <;> rfl

end Runs

/-- Settles O51: a step answers from the first sample and carries the others along. -/
theorem laterDrivesHaveNoEffect : Obligations.LaterDrivesHaveNoEffect := by
  intro s t e rest rest' h
  obtain ⟨hlegal, _⟩ := step_cases h
  have hsample (l : List PortSample) : step (withEnv s (e :: l)) = applySample e (withEnv s l) := step_sample hlegal rfl
  exact (hsample rest').trans (applySample_withEnv ((hsample rest).symm.trans h) rest')

section Runs

variable {s t u v : State} {e : PortSample} {n : Nat}

/-! ### Several steps -/

theorem stepMany_succ (h : step s = .next t) : stepMany (n + 1) s = stepMany n t := by rw [stepMany, h]

/-- A run that answers takes its first step, and the rest from there. -/
theorem stepMany_succ_next (h : stepMany (n + 1) s = .next u) : ∃ t, step s = .next t ∧ stepMany n t = .next u := by
  rw [stepMany] at h
  split at h
  · exact ⟨_, ‹_›, h⟩
  · cases h
  · cases h

/-- One step more. -/
theorem stepMany_succ_last (h : stepMany n s = .next u) : stepMany (n + 1) s = step u := by
  induction n generalizing s with
  | zero =>
    obtain rfl := next_inj.mp h
    rw [stepMany]
    split <;> rename_i hstep <;> rw [hstep]
    rfl
  | succ n ih =>
    obtain ⟨t, hstep, hrest⟩ := stepMany_succ_next h
    rw [stepMany_succ hstep, ih hrest]

/-- A busy block hands over an action a step; while another is left no register changes (R200, R201). -/
theorem stepMany_transfers (hlegal : v.cfg.Legal) (takes rest : List PortSample)
    (htakes : ∀ x ∈ takes, x.rst = false ∧ x.outReady = true) (henv : v.env = takes ++ rest)
    (hlen : takes.length < v.out.length) :
    stepMany takes.length v = .next { v with env := rest, out := v.out.drop takes.length } := by
  induction takes generalizing v with
  | nil =>
    rw [List.nil_append] at henv
    subst henv
    rfl
  | cons x xs ih =>
    obtain ⟨⟨hrst, htake⟩, hxs⟩ := List.forall_mem_cons.mp htakes
    rw [List.length_cons] at hlen ⊢
    have hmore : v.out.tail ≠ [] := List.ne_nil_of_length_pos (by rw [List.length_tail]; omega)
    have hrest := ih (v := { v with env := xs ++ rest, out := v.out.tail }) hlegal hxs rfl
      (by rw [List.length_tail]; omega)
    refine (stepMany_succ (step_takes_more hlegal henv hrst htake hmore)).trans (hrest.trans ?_)
    rw [List.drop_tail]

/-- With its last action the command's update is written. -/
theorem stepMany_settles (hlegal : v.cfg.Legal) (takes rest : List PortSample)
    (htakes : ∀ x ∈ takes, x.rst = false ∧ x.outReady = true) (henv : v.env = takes ++ rest)
    (hlen : takes.length = v.out.length) (hbusy : v.out ≠ []) :
    stepMany takes.length v = .next ({ v with env := rest } : State).settle := by
  induction takes generalizing v with
  | nil => exact absurd (List.length_eq_zero_iff.mp hlen.symm) hbusy
  | cons x xs ih =>
    obtain ⟨⟨hrst, htake⟩, hxs⟩ := List.forall_mem_cons.mp htakes
    have hlen' : xs.length = v.out.tail.length := by rw [List.length_tail, ← hlen, List.length_cons, Nat.add_sub_cancel]
    rw [List.length_cons]
    by_cases hlast : v.out.tail = []
    · obtain rfl : xs = [] := List.length_eq_zero_iff.mp (by rw [hlen', hlast]; rfl)
      exact stepMany_succ (step_takes_last hlegal henv hrst hbusy htake hlast)
    · exact (stepMany_succ (step_takes_more hlegal henv hrst htake hlast)).trans
        (ih (v := { v with env := xs ++ rest, out := v.out.tail }) hlegal hxs rfl hlen' hlast)

/-- `s` with the actions of a command that leads to `t` offered, and its update held (R200). -/
def inProgress (s t : State) (l : List PortSample) : State :=
  { s with env := l, out := t.out, held := some ⟨t.a, t.b, t.lastStatus⟩ }

theorem accept_eq_inProgress (l : List PortSample) (hemits : t.out ≠ []) : (withEnv s l).accept t = inProgress s t l :=
  accept_busy hemits

/-- The acceptance of a command is the same with more samples to come, which it carries along. -/
theorem step_accepts_early {takes rest : List PortSample} {i : Instr} (hlegal : s.cfg.Legal)
    (henv : s.env = e :: (takes ++ rest)) (hrst : e.rst = false) (hready : s.out = []) (hvalid : e.cmdValid = true)
    (hc : decode e.cmd = .command i) (hexec : exec i (withEnv s rest) = .next t) :
    step s = .next (withEnv ((withEnv s rest).accept t) (takes ++ rest)) := by
  have hs : withEnv s (e :: (takes ++ rest)) = s := by rw [← henv]; rfl
  have haccept : step (withEnv s (e :: rest)) = .next ((withEnv s rest).accept t) :=
    step_accepts hlegal rfl hrst hready hvalid hc hexec
  calc step s = step (withEnv s (e :: (takes ++ rest))) := by rw [hs]
    _ = .next (withEnv ((withEnv s rest).accept t) (takes ++ rest)) := laterDrivesHaveNoEffect s _ e rest _ haccept

end Runs

/-- Settles O48: after the acceptance the transfers leave the registers alone until the last, which writes the update.
-/
theorem commandFinishesAsExec : Obligations.CommandFinishesAsExec := by
  intro s t e takes rest i hlegal hready hrst hvalid hc hexec hlen htakes henv
  have hout : s.out = [] := cmdReady_iff.mp hready
  have hfirst := step_accepts_early hlegal henv hrst hout hvalid hc hexec
  have hdone : ((withEnv s rest).accept t).settle = { t with out := [], held := none } := settle_accept hout hexec
  by_cases hsilent : t.out = []
  · obtain rfl : takes = [] := List.length_eq_zero_iff.mp (by rw [hlen, hsilent]; rfl)
    rw [accept_done hsilent] at hfirst hdone
    refine ⟨?_, by simp [hsilent]⟩
    rw [hsilent, ← hdone, List.length_nil, stepMany_succ hfirst]
    obtain ⟨_, htenv, _⟩ := exec_carries hexec
    exact congrArg Host.Outcome.next (State.ext rfl rfl rfl rfl rfl hsilent rfl htenv.symm rfl)
  · rw [accept_eq_inProgress rest hsilent] at hfirst hdone
    refine ⟨?_, fun j hj => ?_⟩
    · rw [← hdone, ← hlen, stepMany_succ hfirst]
      exact stepMany_settles (v := inProgress s t (takes ++ rest)) hlegal takes rest htakes rfl hlen hsilent
    · have htake : (takes.take j).length = j := List.length_take_of_le (by omega)
      have hmid := stepMany_transfers (v := inProgress s t (takes ++ rest)) hlegal (takes.take j) (takes.drop j ++ rest)
        (fun x hx => htakes x (List.mem_of_mem_take hx)) (by rw [← List.append_assoc, List.take_append_drop]; rfl)
        (by rwa [htake])
      rw [htake] at hmid
      refine ⟨_, (stepMany_succ hfirst).trans hmid, rfl, cmdReady_false_iff.mpr ?_, rfl, rfl, rfl, rfl⟩
      exact fun hnil => absurd (List.drop_eq_nil_iff.mp hnil) (not_le.mpr hj)

/-! ### Good runs (R167) -/

section GoodRuns

variable {s t u : State} {n : Nat}

theorem contractKept_iff : s.contractKept = true ↔ s.fault = 0 := decide_eq_true_iff

/-- A good run takes its first step from a state without a fault, and the rest is a good run. -/
theorem goodRun_succ_iff :
    goodRun (n + 1) s = some t ↔ s.fault = 0 ∧ ∃ u, step s = .next u ∧ goodRun n u = some t := by
  rw [goodRun, ← contractKept_iff]
  split
  · rename_i hkept
    cases step s <;> simp [hkept]
  · simp_all

/-- R167: every state of a good run is without a fault. -/
theorem goodRun_iff : goodRun n s = some t ↔ stepMany n s = .next t ∧ t.cmdReady = true ∧
    ∀ k ≤ n, ∃ u, stepMany k s = .next u ∧ u.fault = 0 := by
  induction n generalizing s with
  | zero =>
    simp only [goodRun, stepMany, Bool.and_eq_true_iff, contractKept_iff, Option.ite_none_right_eq_some,
      Option.some.injEq, next_inj, Nat.le_zero_eq, forall_eq, exists_eq_left']
    constructor
    · rintro ⟨⟨hfault, hready⟩, rfl⟩
      exact ⟨rfl, hready, hfault⟩
    · rintro ⟨rfl, hready, hfault⟩
      exact ⟨⟨hfault, hready⟩, rfl⟩
  | succ n ih =>
    rw [goodRun_succ_iff]
    constructor
    · rintro ⟨hfault, u, hstep, hgood⟩
      obtain ⟨hrun, hready, hall⟩ := ih.mp hgood
      refine ⟨(stepMany_succ hstep).trans hrun, hready, fun k hk => ?_⟩
      cases k with
      | zero => exact ⟨s, rfl, hfault⟩
      | succ k => rw [stepMany_succ hstep]; exact hall k (by omega)
    · rintro ⟨hrun, hready, hall⟩
      obtain ⟨u, hstep, hrest⟩ := stepMany_succ_next hrun
      obtain ⟨s', hs', hfault⟩ := hall 0 (Nat.zero_le _)
      obtain rfl := next_inj.mp hs'
      refine ⟨hfault, u, hstep, ih.mpr ⟨hrest, hready, fun k hk => ?_⟩⟩
      rw [← stepMany_succ hstep]
      exact hall (k + 1) (by omega)

/-- A raised fault bit is set. -/
theorem raised_ne_zero (x : BitVec 2) (f : FaultBit) : x ||| f.mask ≠ 0 := by
  revert x
  cases f <;> decide

/-- The two commands that fault (R165, R166): the state after the step has a fault bit set. -/
theorem step_faulting {e : PortSample} {rest : List PortSample} (hready : u.cmdReady = true) (henv : u.env = e :: rest)
    (hrst : e.rst = false) (hvalid : e.cmdValid = true)
    (hcmd : e.cmd.op ∈ reservedCodes ∨ (e.cmd.op = 0b0011 ∧ u.a.timer = .stopped)) (h : step u = .next t) :
    t.fault ≠ 0 := by
  obtain ⟨hlegal, _⟩ := step_cases h
  have hout : u.out = [] := cmdReady_iff.mp hready
  rcases hcmd with hres | ⟨hop, hstopped⟩
  · obtain rfl := next_inj.mp ((step_reserved hlegal henv hrst hout hvalid hres).symm.trans h)
    exact raised_ne_zero u.fault .reservedOp
  · have hspurious : exec .aTimeout { u with env := rest } = _ := exec_aTimeout_iff.mpr (.inl ⟨hstopped, rfl⟩)
    have hstep := step_accepts hlegal henv hrst hout hvalid (decode_aTimeout hop) hspurious
    obtain rfl := next_inj.mp (hstep.symm.trans h)
    rw [accept_done]
    · exact raised_ne_zero u.fault .spuriousTimeout
    · exact hout

end GoodRuns

/-- Settles O55: a step that faults leaves a state with a fault bit set, which no good run has. -/
theorem faultedRunIsNeverGood : Obligations.FaultedRunIsNeverGood := by
  refine fun n s => ⟨fun t => goodRun_iff, fun k u e rest hk hu hready henv hrst hvalid hcmd => ?_⟩
  rw [Option.eq_none_iff_forall_ne_some]
  intro t hgood
  obtain ⟨_, _, hall⟩ := goodRun_iff.mp hgood
  obtain ⟨v, hv, hclean⟩ := hall (k + 1) hk
  rw [stepMany_succ_last hu] at hv
  exact step_faulting hready henv hrst hvalid hcmd hv hclean

end Sys2Proof
end
